-- ==== Sys2Proof/Word.lean ====
section
/-! DEFINITION. The word sizes of the block (00_scope.md R8, R10) and the finite sums and counts its
rules are written with (00_scope.md R9, R13). -/

namespace Sys2Proof

/-- One byte of a buffer or of the reference store (00_scope.md R10). -/
abbrev Byte := BitVec 8

/-- A 32-bit half-word (00_scope.md R15). -/
abbrev Half := BitVec 32

/-- A 64-bit word, the width of every register (10_state.md R22). -/
abbrev Word := BitVec 64

/-- `Σ_{i<n} f(i)`, 0 when `n` is 0 (00_scope.md R9). -/
def sumTo : Nat → (Nat → Nat) → Nat
  | 0, _ => 0
  | n + 1, f => sumTo n f + f n

/-- `|{ i < n : p(i) }|` (00_scope.md R13). -/
def countTo (n : Nat) (p : Nat → Bool) : Nat :=
  sumTo n fun i => (p i).toNat

end Sys2Proof
end

