-- ==== Sys2Proof/Config.lean ====
section
/-! DEFINITION. What an implementation fixes (00_scope.md R6) and the free values the spec leaves open
(10_state.md R43, 93_implementation_defined.md U3). -/

namespace Sys2Proof

/-- The parameters of the block (00_scope.md R6). They never change (10_state.md R20, R38;
70_reset_and_hazards.md R280). -/
structure Params where
  /-- MAX_CODE_BYTES: how many bytes each of BUF_A, BUF_B and REF has -/
  maxCodeBytes : Nat
  /-- ACCEL_PRESENT: shown in CAP[0], changes no result (10_state.md R38) -/
  accelPresent : Bool
  /-- GH_PRESENT: the generalized-Hamming option -/
  ghPresent : Bool
  /-- BASE: where the platform places the window (20_memory.md R61) -/
  base : Nat
  deriving DecidableEq, Repr

/-- The parameter values 00_scope.md R6 allows: MAX_CODE_BYTES a multiple of 8 from 128 to 4096. -/
abbrev Params.wf (p : Params) : Prop :=
  p.maxCodeBytes % 8 = 0 ∧ 128 ≤ p.maxCodeBytes ∧ p.maxCodeBytes ≤ 4096

/-- ACCEL_PRESENT, OPEN in 00_scope.md R6 (log entry 3). -/
opaque Config.accelPresent : Bool

/-- BASE, OPEN in 00_scope.md R6 (log entry 3). -/
opaque Config.base : Nat

/-- FREE VALUE. The byte of BUF_A or BUF_B at a window offset not written since reset number `resets`
(10_state.md R43; log entries 4 and 5). -/
opaque Config.unwrittenBuffer (resets offset : Nat) : Byte

/-- FREE VALUE. The byte of REF at an index no SET has written since reset number `resets`
(10_state.md R43; log entries 4 and 5). -/
opaque Config.unwrittenRef (resets index : Nat) : Byte

/-- The parameters of the block at hand: the values 00_scope.md R6 gives for this hardware, ACCEL_PRESENT
and BASE left open (log entries 2 and 3). -/
def Config.params : Params :=
  { maxCodeBytes := 256, accelPresent := Config.accelPresent, ghPresent := true, base := Config.base }

end Sys2Proof
end

