-- ==== Sys2Proof/Syntax.lean ====
section
/-! DEFINITION. The commands of the block, one constructor per row of the opcode table
(30_encoding.md R94, R95, R99). A length operand is the 16-bit LEN field (30_encoding.md R92). -/

namespace Sys2Proof

/-- The eleven comparator variants (30_encoding.md R95). -/
inductive Kind where
  | h4 | h8 | h16 | h20 | h32 | h64
  /-- the arbitrary-length "default" Hamming variant -/
  | hdef
  | g8 | g16 | g32
  /-- generalized Hamming over any multiple of 8 bytes -/
  | gm8
  deriving DecidableEq, Repr

/-- A command. -/
inductive Instr where
  | popc8 | popc32 | popc64 | ghw | xacc | aclr
  | hamw (nwords : BitVec 16)
  | hamb (nbytes : BitVec 16)
  | setH4 (codeSize : BitVec 16)
  | setH8 (codeSize : BitVec 16)
  | setH16 (codeSize : BitVec 16)
  | setH20 (codeSize : BitVec 16)
  | setH32 (codeSize : BitVec 16)
  | setH64 (codeSize : BitVec 16)
  | setHdef (codeSize : BitVec 16)
  | setG8 (codeSize : BitVec 16)
  | setG16 (codeSize : BitVec 16)
  | setG32 (codeSize : BitVec 16)
  | setGm8 (codeSize : BitVec 16)
  | cmp | gsz
  deriving DecidableEq, Repr

end Sys2Proof
end

