-- ==== Sys2Proof/Machine/State.lean ====
section
/-! DEFINITION. Everything the spec gives the block (10_state.md R20), as plain data, the host's accesses
that are still to be served, and the state after reset (10_state.md R40). -/

namespace Sys2Proof.Machine

/-- The error causes of 60_exceptions.md R251, NONE apart. -/
inductive ErrorCode where
  | illegal | range | size | noref | access
  deriving DecidableEq, Repr

/-- The comparator's KIND and LEN while it holds a reference (10_state.md R33). -/
structure Held where
  kind : Kind
  len : BitVec 16
  deriving DecidableEq, Repr

/-- The size of a host access in bytes: 1, 2, 4 or 8 (20_memory.md R60). -/
inductive Size where
  | s1 | s2 | s4 | s8
  deriving DecidableEq, Repr

/-- A value of 8n bits carried by an access of n bytes (20_memory.md R60). -/
inductive Value where
  | v1 (v : BitVec 8)
  | v2 (v : BitVec 16)
  | v4 (v : BitVec 32)
  | v8 (v : BitVec 64)
  deriving DecidableEq, Repr

/-- One access of the host at a window offset (20_memory.md R60). -/
inductive Access where
  | read (off : BitVec 16) (n : Size)
  | write (off : BitVec 16) (v : Value)
  deriving DecidableEq, Repr

/-- What the outside world does to the block: an access, or reset (20_memory.md R60;
70_reset_and_hazards.md R280). -/
inductive HostEvent where
  | access (a : Access)
  | reset
  deriving DecidableEq, Repr

/-- Bytes that have been written, with their addresses. An unlisted address holds no written byte. -/
abbrev Memory := List Host.Cell

/-- The canonical form: addresses strictly rising. An unlisted address reads as no value at all, so no
entry can equal it. -/
abbrev Memory.wf (m : Memory) : Prop := m.Pairwise fun x y => x.1 < y.1

/-- The state of the block (10_state.md R20), with the parameters and three fields of the model's own. -/
structure State where
  /-- the parameters, which nothing changes (00_scope.md R6; log entry 1) -/
  params : Params
  /-- STATUS.ERR and STATUS.ERRCODE: `some` when ERR is 1 (10_state.md R25; log entry 8) -/
  error : Option ErrorCode
  /-- VALID, KIND and LEN: `some` when VALID is 1 (10_state.md R25, R33; log entry 8) -/
  held : Option Held
  /-- REF: the bytes SET has written, by index (10_state.md R33, R34) -/
  ref : Memory
  /-- RESULT (10_state.md R28) -/
  result : Word
  /-- ACC (10_state.md R29) -/
  acc : Word
  /-- OPA (10_state.md R30) -/
  opa : Word
  /-- OPB (10_state.md R31) -/
  opb : Word
  /-- BUF_A and BUF_B: the bytes the host has written, by window offset (10_state.md R36; 20_memory.md R62) -/
  mem : Memory
  /-- MODEL'S OWN: how many resets have gone by, which picks the free values (log entry 5) -/
  resets : Nat
  /-- MODEL'S OWN: what the outside world will do, next first (20_memory.md R73, R78; log entry 6) -/
  pending : List HostEvent
  /-- MODEL'S OWN: the values host reads have returned, oldest first (20_memory.md R66; log entry 7) -/
  observed : List Value
  deriving DecidableEq, Repr

/-- Nothing stops the block: it raises no trap, and an error is a value in STATUS (60_exceptions.md R250,
R260). So no step faults, and this type has no constructor. -/
inductive Fault where
  deriving DecidableEq, Repr

/-- Why a step has no meaning. -/
inductive Refusal where
  /-- Raised by an arm of `exec` for a command without a meaning yet; no arm of this model raises it. Safe:
  the model stops where the hardware goes on. -/
  | notModelled (mnemonic : String)
  deriving DecidableEq, Repr

/-- The block with parameters `p` right after reset (10_state.md R40; 70_reset_and_hazards.md R280): STATUS,
RESULT, ACC, OPA and OPB are 0, no byte of REF, BUF_A or BUF_B is written. -/
def State.resetWith (p : Params) : State :=
  { params := p
    error := none
    held := none
    ref := []
    result := 0
    acc := 0
    opa := 0
    opb := 0
    mem := []
    resets := 0
    pending := []
    observed := [] }

/-- The machine right after reset. -/
def State.reset : State := State.resetWith Config.params

end Sys2Proof.Machine
end

