-- ==== Sys2Proof/Machine/Ops.lean ====
section
/-! DEFINITION. The operations the meanings share: memory, population counts and distances, the byte table,
the named updates of the state, raising an error and clearing it, reset, and BASE. -/

namespace Sys2Proof.Machine

/-! ### Memory -/

/-- The byte written at an address, if one has been. -/
def Memory.find : Memory → Nat → Option Byte
  | [], _ => none
  | (k, b) :: m, a => if k = a then some b else Memory.find m a

/-- Write one byte; the list stays in its canonical form. -/
def Memory.store : Memory → Nat → Byte → Memory
  | [], a, b => [(a, b)]
  | (k, c) :: m, a, b =>
    if a < k then (a, b) :: (k, c) :: m
    else if a = k then (a, b) :: m
    else (k, c) :: Memory.store m a b

/-- Write the `n` bytes `f 0 … f (n-1)` at `base` and up (20_memory.md R67; 42_hamming_comparators.md R171). -/
def Memory.storeRange (m : Memory) (base : Nat) : Nat → (Nat → Byte) → Memory
  | 0, _ => m
  | n + 1, f => (Memory.storeRange m base n f).store (base + n) (f n)

/-! ### Counting -/

/-- `popcount_N(v) = Σ_{i<N} v[i]` (00_scope.md R12). -/
def popcount {n : Nat} (v : BitVec n) : Nat :=
  sumTo n fun i => (v.getLsbD i).toNat

/-- POPTAB by rows of the high nibble (10_state.md R37; the values of 95_test_vectors.md section 2). -/
def poptabRows : List (List (BitVec 4)) :=
  [ [0, 1, 1, 2, 1, 2, 2, 3, 1, 2, 2, 3, 2, 3, 3, 4],
    [1, 2, 2, 3, 2, 3, 3, 4, 2, 3, 3, 4, 3, 4, 4, 5],
    [1, 2, 2, 3, 2, 3, 3, 4, 2, 3, 3, 4, 3, 4, 4, 5],
    [2, 3, 3, 4, 3, 4, 4, 5, 3, 4, 4, 5, 4, 5, 5, 6],
    [1, 2, 2, 3, 2, 3, 3, 4, 2, 3, 3, 4, 3, 4, 4, 5],
    [2, 3, 3, 4, 3, 4, 4, 5, 3, 4, 4, 5, 4, 5, 5, 6],
    [2, 3, 3, 4, 3, 4, 4, 5, 3, 4, 4, 5, 4, 5, 5, 6],
    [3, 4, 4, 5, 4, 5, 5, 6, 4, 5, 5, 6, 5, 6, 6, 7],
    [1, 2, 2, 3, 2, 3, 3, 4, 2, 3, 3, 4, 3, 4, 4, 5],
    [2, 3, 3, 4, 3, 4, 4, 5, 3, 4, 4, 5, 4, 5, 5, 6],
    [2, 3, 3, 4, 3, 4, 4, 5, 3, 4, 4, 5, 4, 5, 5, 6],
    [3, 4, 4, 5, 4, 5, 5, 6, 4, 5, 5, 6, 5, 6, 6, 7],
    [2, 3, 3, 4, 3, 4, 4, 5, 3, 4, 4, 5, 4, 5, 5, 6],
    [3, 4, 4, 5, 4, 5, 5, 6, 4, 5, 5, 6, 5, 6, 6, 7],
    [3, 4, 4, 5, 4, 5, 5, 6, 4, 5, 5, 6, 5, 6, 6, 7],
    [4, 5, 5, 6, 5, 6, 6, 7, 5, 6, 6, 7, 6, 7, 7, 8] ]

/-- `POPTAB[b]`, a 4-bit value (10_state.md R37). -/
def poptab (b : Byte) : BitVec 4 :=
  (poptabRows.getD (b.toNat / 16) []).getD (b.toNat % 16) 0

/-- The reducer step `xpop(a, b) = popcount_64(a XOR b)` (40_popcount_reducer.md R121). -/
def xpop (a b : Word) : Nat := popcount (a ^^^ b)

/-- The generalized-Hamming word function: how many of the eight bytes of `v` are not 0
(40_popcount_reducer.md R128). -/
def ghw (v : Word) : Nat :=
  countTo 8 fun k => v.extractLsb' (8 * k) 8 != 0#8

/-- The Hamming distance of two codes of `n` bytes (00_scope.md R13). -/
def ham (x y : Nat → Byte) (n : Nat) : Nat :=
  sumTo n fun i => popcount (x i ^^^ y i)

/-- The generalized Hamming distance of two codes of `n` bytes (00_scope.md R13). -/
def gham (x y : Nat → Byte) (n : Nat) : Nat :=
  countTo n fun i => x i != y i

/-! ### Variants -/

/-- The kinds of the generalized-Hamming family (30_encoding.md R95, R96). -/
def isGeneralized : Kind → Bool
  | .g8 | .g16 | .g32 | .gm8 => true
  | .h4 | .h8 | .h16 | .h20 | .h32 | .h64 | .hdef => false

/-- The lengths SET accepts for each variant: `legal_size` of 42_hamming_comparators.md R172 to R178 and
43_generalized_hamming.md R221 to R224, up to MAX_CODE_BYTES. -/
def legalSize (k : Kind) (len : Nat) : Bool :=
  match k with
  | .h4 => len == 4
  | .h8 => len == 8
  | .h16 => len == 16
  | .h20 => len == 20
  | .h32 => len == 32
  | .h64 => len == 64
  | .hdef => true
  | .g8 => len == 8
  | .g16 => len == 16
  | .g32 => len == 32
  | .gm8 => len % 8 == 0

/-! ### Updates of the state -/

/-- RESULT takes a number modulo 2^64 (00_scope.md R9; 10_state.md R28). -/
def State.setResult (s : State) (v : Nat) : State := { s with result := BitVec.ofNat 64 v }

/-- ACC takes a word (10_state.md R29). -/
def State.setAcc (s : State) (v : Word) : State := { s with acc := v }

/-- OPA takes a word (10_state.md R30). -/
def State.setOpa (s : State) (v : Word) : State := { s with opa := v }

/-- OPB takes a word (10_state.md R31). -/
def State.setOpb (s : State) (v : Word) : State := { s with opb := v }

/-- Bytes written to the buffers at a window offset (20_memory.md R67). -/
def State.storeBytes (s : State) (off n : Nat) (f : Nat → Byte) : State :=
  { s with mem := s.mem.storeRange off n f }

/-- The comparator takes a new reference: `REF[i] <- f(i)` for `i < LEN`, KIND, LEN, VALID
(42_hamming_comparators.md R171). -/
def State.hold (s : State) (k : Kind) (len : BitVec 16) (f : Nat → Byte) : State :=
  { s with ref := s.ref.storeRange 0 len.toNat f, held := some { kind := k, len := len } }

/-- The host's next move has been taken up (20_memory.md R73). -/
def State.withPending (s : State) (rest : List HostEvent) : State := { s with pending := rest }

/-- A host read has returned a value (20_memory.md R66). -/
def State.observe (s : State) (v : Value) : State := { s with observed := s.observed ++ [v] }

/-! ### Errors and reset -/

/-- `raise Error(code)`: ERR and ERRCODE are written and nothing else changes (60_exceptions.md R252); while
ERR is 1 the first error's code stays (R253). This is all the exception entry the block has (R260). -/
def State.raise (s : State) (code : ErrorCode) : State :=
  { s with
    error :=
      match s.error with
      | none => some code
      | some first => some first }

/-- Return from an error: ERR <- 0 and ERRCODE <- 0, nothing else (60_exceptions.md R255). -/
def State.clearError (s : State) : State := { s with error := none }

/-- Reset (70_reset_and_hazards.md R280): every register and the comparator as 10_state.md R40 says, no byte
of REF, BUF_A and BUF_B written; the parameters stay. What the host still means to do and what it has read
are no state of the block and stay too (log entry 14). -/
def State.resetBlock (s : State) : State :=
  { State.resetWith s.params with
    resets := s.resets + 1, pending := s.pending, observed := s.observed }

/-! ### The platform -/

/-- The window offset of a platform address, `off = address − BASE`; an address outside the window is no
access to the block (20_memory.md R61; 92_eei_decisions.md D39). -/
def windowOffset (p : Params) (address : Nat) : Option (BitVec 16) :=
  if p.base ≤ address ∧ address < p.base + 0x10000 then some (BitVec.ofNat 16 (address - p.base)) else none

/-- The outside world adds a read at a platform address to what it will do. -/
def State.issueRead (s : State) (address : Nat) (n : Size) : State :=
  match windowOffset s.params address with
  | some off => s.withPending (s.pending ++ [.access (.read off n)])
  | none => s

/-- The outside world adds a write at a platform address to what it will do. -/
def State.issueWrite (s : State) (address : Nat) (v : Value) : State :=
  match windowOffset s.params address with
  | some off => s.withPending (s.pending ++ [.access (.write off v)])
  | none => s

end Sys2Proof.Machine
end

