-- ==== Sys2Proof/Machine/Operands.lean ====
section
/-! DEFINITION. How commands and accesses see the buffers, the reference store and access values: bytes,
little-endian half-words and words (00_scope.md R10; 10_state.md R35; 20_memory.md R63, R76). -/

namespace Sys2Proof.Machine

/-- Where BUF_A starts in the window (20_memory.md R62). -/
def bufABase : Nat := 0x1000

/-- Where BUF_B starts in the window (20_memory.md R62). -/
def bufBBase : Nat := 0x2000

/-- 64-bit little-endian word `k` of a byte array (20_memory.md R63). -/
def wordOf (x : Nat → Byte) (k : Nat) : Word :=
  (x (8 * k + 7) ++ x (8 * k + 6) ++ x (8 * k + 5) ++ x (8 * k + 4) ++
    x (8 * k + 3) ++ x (8 * k + 2) ++ x (8 * k + 1) ++ x (8 * k) : BitVec (8 + 8 + 8 + 8 + 8 + 8 + 8 + 8))

/-- 32-bit little-endian half-word `k` of a byte array (20_memory.md R63). -/
def halfOf (x : Nat → Byte) (k : Nat) : Half :=
  (x (4 * k + 3) ++ x (4 * k + 2) ++ x (4 * k + 1) ++ x (4 * k) : BitVec (8 + 8 + 8 + 8))

/-- 16-bit little-endian value of two bytes (20_memory.md R63). -/
def pairOf (x : Nat → Byte) : BitVec 16 :=
  (x 1 ++ x 0 : BitVec (8 + 8))

/-- The byte at a window offset of BUF_A or BUF_B: the one written last, else a free value that stays the
same until the offset is written or the block is reset (10_state.md R43; 20_memory.md R70). -/
def State.byteAt (s : State) (off : Nat) : Byte :=
  (s.mem.find off).getD (Config.unwrittenBuffer s.resets off)

/-- `A[i]` (00_scope.md R10). -/
def State.byteA (s : State) (i : Nat) : Byte := s.byteAt (bufABase + i)

/-- `B[i]` (00_scope.md R10). -/
def State.byteB (s : State) (i : Nat) : Byte := s.byteAt (bufBBase + i)

/-- `REF[i]` (00_scope.md R10; 10_state.md R43). -/
def State.byteRef (s : State) (i : Nat) : Byte :=
  (s.ref.find i).getD (Config.unwrittenRef s.resets i)

/-- `wA(k)` (00_scope.md R10). -/
def State.wordA (s : State) (k : Nat) : Word := wordOf s.byteA k

/-- `wB(k)` (00_scope.md R10). -/
def State.wordB (s : State) (k : Nat) : Word := wordOf s.byteB k

/-- `wR(k)` (00_scope.md R10; 10_state.md R35). -/
def State.wordR (s : State) (k : Nat) : Word := wordOf s.byteRef k

/-- `hA(k)` (00_scope.md R10). -/
def State.halfA (s : State) (k : Nat) : Half := halfOf s.byteA k

/-- `hB(k)` (00_scope.md R10). -/
def State.halfB (s : State) (k : Nat) : Half := halfOf s.byteB k

/-- `hR(k)` (00_scope.md R10; 10_state.md R35). -/
def State.halfR (s : State) (k : Nat) : Half := halfOf s.byteRef k

/-- How many bytes an access has (20_memory.md R60). -/
def Size.bytes : Size → Nat
  | .s1 => 1
  | .s2 => 2
  | .s4 => 4
  | .s8 => 8

/-- The size of the access that carries a value (20_memory.md R60). -/
def Value.size : Value → Size
  | .v1 _ => .s1
  | .v2 _ => .s2
  | .v4 _ => .s4
  | .v8 _ => .s8

/-- Bits `[8j+7:8j]` of an access value (20_memory.md R63). -/
def Value.byte (v : Value) (j : Nat) : Byte :=
  match v with
  | .v1 v => v.extractLsb' (8 * j) 8
  | .v2 v => v.extractLsb' (8 * j) 8
  | .v4 v => v.extractLsb' (8 * j) 8
  | .v8 v => v.extractLsb' (8 * j) 8

/-- The access value of `n` bytes, the first in bits [7:0] (20_memory.md R63, R66). -/
def Value.ofBytes (n : Size) (x : Nat → Byte) : Value :=
  match n with
  | .s1 => .v1 (x 0)
  | .s2 => .v2 (pairOf x)
  | .s4 => .v4 (halfOf x 0)
  | .s8 => .v8 (wordOf x 0)

/-- 0 of 8n bits, what a bad read returns (20_memory.md R68). -/
def Value.zero : Size → Value
  | .s1 => .v1 0
  | .s2 => .v2 0
  | .s4 => .v4 0
  | .s8 => .v8 0

end Sys2Proof.Machine
end

