-- ==== Sys2Proof/Machine/Comparators.lean ====
section
/-! DEFINITION. The comparator (42_hamming_comparators.md): SET for every KIND as one shared operation, SET of
the Hamming variants, the distance CMP computes for each KIND in its defining form, CMP and GSZ. -/

namespace Sys2Proof.Machine

/-! ### SET -/

/-- SET(kind, len): ILLEGAL for a G kind without GH_PRESENT (30_encoding.md R96), then RANGE, then SIZE, else
copy `A[0 … len−1]` into REF and hold KIND and LEN (42_hamming_comparators.md R171; 60_exceptions.md R256). -/
def State.setReference (s : State) (k : Kind) (len : BitVec 16) : State :=
  if isGeneralized k = true ∧ s.params.ghPresent = false then s.raise .illegal
  else if len.toNat > s.params.maxCodeBytes then s.raise .range
  else if legalSize k len.toNat = false then s.raise .size
  else s.hold k len s.byteA

/-- SET.H4 (42_hamming_comparators.md R172). -/
def execSetH4 (codeSize : BitVec 16) (s : State) : Host.Outcome State Fault Refusal :=
  .next (s.setReference .h4 codeSize)

/-- SET.H8 (42_hamming_comparators.md R173). -/
def execSetH8 (codeSize : BitVec 16) (s : State) : Host.Outcome State Fault Refusal :=
  .next (s.setReference .h8 codeSize)

/-- SET.H16 (42_hamming_comparators.md R174). -/
def execSetH16 (codeSize : BitVec 16) (s : State) : Host.Outcome State Fault Refusal :=
  .next (s.setReference .h16 codeSize)

/-- SET.H20 (42_hamming_comparators.md R175). -/
def execSetH20 (codeSize : BitVec 16) (s : State) : Host.Outcome State Fault Refusal :=
  .next (s.setReference .h20 codeSize)

/-- SET.H32 (42_hamming_comparators.md R176). -/
def execSetH32 (codeSize : BitVec 16) (s : State) : Host.Outcome State Fault Refusal :=
  .next (s.setReference .h32 codeSize)

/-- SET.H64 (42_hamming_comparators.md R177). -/
def execSetH64 (codeSize : BitVec 16) (s : State) : Host.Outcome State Fault Refusal :=
  .next (s.setReference .h64 codeSize)

/-- SET.HDEF (42_hamming_comparators.md R178). -/
def execSetHdef (codeSize : BitVec 16) (s : State) : Host.Outcome State Fault Refusal :=
  .next (s.setReference .hdef codeSize)

/-! ### The distances of CMP -/

/-- CMP on H4 (42_hamming_comparators.md R180). -/
def State.cmpH4 (s : State) : Nat :=
  popcount (s.halfR 0 ^^^ s.halfB 0)

/-- CMP on H8 (42_hamming_comparators.md R181). -/
def State.cmpH8 (s : State) : Nat :=
  popcount (s.wordR 0 ^^^ s.wordB 0)

/-- CMP on H16 (42_hamming_comparators.md R182). -/
def State.cmpH16 (s : State) : Nat :=
  popcount (s.wordR 0 ^^^ s.wordB 0) + popcount (s.wordR 1 ^^^ s.wordB 1)

/-- CMP on H20, bytes 16 to 19 as a half-word (42_hamming_comparators.md R183). -/
def State.cmpH20 (s : State) : Nat :=
  popcount (s.wordR 0 ^^^ s.wordB 0) + popcount (s.wordR 1 ^^^ s.wordB 1) +
    popcount (s.halfR 4 ^^^ s.halfB 4)

/-- CMP on H32 (42_hamming_comparators.md R184). -/
def State.cmpH32 (s : State) : Nat :=
  sumTo 4 fun i => popcount (s.wordR i ^^^ s.wordB i)

/-- CMP on H64, the defining form (42_hamming_comparators.md R185). -/
def State.cmpH64 (s : State) : Nat :=
  sumTo 8 fun i => popcount (s.wordR i ^^^ s.wordB i)

/-- CMP on HDEF with `len` bytes: `len / 8` words, then `len % 8` bytes through POPTAB
(42_hamming_comparators.md R187). -/
def State.cmpHdef (s : State) (len : Nat) : Nat :=
  (sumTo (len / 8) fun i => popcount (s.wordR i ^^^ s.wordB i)) +
    sumTo (len % 8) fun j =>
      (poptab (s.byteRef (8 * (len / 8) + j) ^^^ s.byteB (8 * (len / 8) + j))).toNat

/-- CMP on G8 (43_generalized_hamming.md R225). -/
def State.cmpG8 (s : State) : Nat :=
  ghw (s.wordR 0 ^^^ s.wordB 0)

/-- CMP on G16, the defining form (43_generalized_hamming.md R226). -/
def State.cmpG16 (s : State) : Nat :=
  countTo 16 fun i => s.byteRef i != s.byteB i

/-- CMP on G32, the defining form (43_generalized_hamming.md R228). -/
def State.cmpG32 (s : State) : Nat :=
  countTo 32 fun i => s.byteRef i != s.byteB i

/-- CMP on GM8 with `len` bytes (43_generalized_hamming.md R229). -/
def State.cmpGm8 (s : State) (len : Nat) : Nat :=
  sumTo (len / 8) fun k => ghw (s.wordR k ^^^ s.wordB k)

/-- The distance CMP computes, by KIND (42_hamming_comparators.md R179). -/
def State.cmpDistance (s : State) (h : Held) : Nat :=
  match h.kind with
  | .h4 => s.cmpH4
  | .h8 => s.cmpH8
  | .h16 => s.cmpH16
  | .h20 => s.cmpH20
  | .h32 => s.cmpH32
  | .h64 => s.cmpH64
  | .hdef => s.cmpHdef h.len.toNat
  | .g8 => s.cmpG8
  | .g16 => s.cmpG16
  | .g32 => s.cmpG32
  | .gm8 => s.cmpGm8 h.len.toNat

/-! ### CMP and GSZ -/

/-- CMP: NOREF without a reference, else RESULT <- the distance of REF and BUF_B
(42_hamming_comparators.md R179). -/
def execCmp (s : State) : Host.Outcome State Fault Refusal :=
  .next
    (match s.held with
     | none => s.raise .noref
     | some h => s.setResult (s.cmpDistance h))

/-- GSZ: NOREF without a reference, else RESULT <- LEN (42_hamming_comparators.md R190, R191). -/
def execGsz (s : State) : Host.Outcome State Fault Refusal :=
  .next
    (match s.held with
     | none => s.raise .noref
     | some h => s.setResult h.len.toNat)

end Sys2Proof.Machine
end

