-- ==== Sys2Proof/Machine/Generalized.lean ====
section
/-! DEFINITION. SET of the generalized-Hamming variants (43_generalized_hamming.md). Their CMP distances
stand with the others in Comparators.lean, because CMP is one command for every KIND. -/

namespace Sys2Proof.Machine

/-- SET.G8 (43_generalized_hamming.md R221). -/
def execSetG8 (codeSize : BitVec 16) (s : State) : Host.Outcome State Fault Refusal :=
  .next (s.setReference .g8 codeSize)

/-- SET.G16 (43_generalized_hamming.md R222). -/
def execSetG16 (codeSize : BitVec 16) (s : State) : Host.Outcome State Fault Refusal :=
  .next (s.setReference .g16 codeSize)

/-- SET.G32 (43_generalized_hamming.md R223). -/
def execSetG32 (codeSize : BitVec 16) (s : State) : Host.Outcome State Fault Refusal :=
  .next (s.setReference .g32 codeSize)

/-- SET.GM8 (43_generalized_hamming.md R224). -/
def execSetGm8 (codeSize : BitVec 16) (s : State) : Host.Outcome State Fault Refusal :=
  .next (s.setReference .gm8 codeSize)

end Sys2Proof.Machine
end

