-- ==== Sys2Proof/Machine/Hamming.lean ====
section
/-! DEFINITION. The Hamming functions over the buffers (41_hamming_functions.md): HAMW, HAMB. -/

namespace Sys2Proof.Machine

/-- HAMW: RESULT <- Σ_{i<nwords} popcount_64(wA(i) XOR wB(i)); RANGE beyond the buffers
(41_hamming_functions.md R151). -/
def execHamw (nwords : BitVec 16) (s : State) : Host.Outcome State Fault Refusal :=
  .next
    (if 8 * nwords.toNat > s.params.maxCodeBytes then s.raise .range
     else s.setResult (sumTo nwords.toNat fun i => xpop (s.wordA i) (s.wordB i)))

/-- HAMB: RESULT <- Σ_{i<nbytes} POPTAB[A[i] XOR B[i]]; RANGE beyond the buffers
(41_hamming_functions.md R153; 90_conflicts.md C1). -/
def execHamb (nbytes : BitVec 16) (s : State) : Host.Outcome State Fault Refusal :=
  .next
    (if nbytes.toNat > s.params.maxCodeBytes then s.raise .range
     else s.setResult (sumTo nbytes.toNat fun i => (poptab (s.byteA i ^^^ s.byteB i)).toNat))

end Sys2Proof.Machine
end

