-- ==== Sys2Proof/Machine/Reducer.lean ====
section
/-! DEFINITION. The popcount_reducer primitives (40_popcount_reducer.md): POPC8, POPC32, POPC64, GHW, XACC,
ACLR. They read OPA, OPB and ACC only and write RESULT or ACC only (R120). -/

namespace Sys2Proof.Machine

/-- POPC8: RESULT <- POPTAB[OPA[7:0]] (40_popcount_reducer.md R122). -/
def execPopc8 (s : State) : Host.Outcome State Fault Refusal :=
  .next (s.setResult (poptab (s.opa.extractLsb' 0 8)).toNat)

/-- POPC32: RESULT <- popcount_32(OPA[31:0]) (40_popcount_reducer.md R123). -/
def execPopc32 (s : State) : Host.Outcome State Fault Refusal :=
  .next (s.setResult (popcount (s.opa.extractLsb' 0 32)))

/-- POPC64: RESULT <- popcount_64(OPA) (40_popcount_reducer.md R124). -/
def execPopc64 (s : State) : Host.Outcome State Fault Refusal :=
  .next (s.setResult (popcount s.opa))

/-- GHW: RESULT <- ghw(OPA); ILLEGAL when GH_PRESENT is false (40_popcount_reducer.md R129). -/
def execGhw (s : State) : Host.Outcome State Fault Refusal :=
  .next (if s.params.ghPresent then s.setResult (ghw s.opa) else s.raise .illegal)

/-- XACC: ACC <- (ACC + xpop(OPA, OPB)) mod 2^64; RESULT is not written (40_popcount_reducer.md R125). -/
def execXacc (s : State) : Host.Outcome State Fault Refusal :=
  .next (s.setAcc (s.acc + BitVec.ofNat 64 (xpop s.opa s.opb)))

/-- ACLR: ACC <- 0; RESULT is not written (40_popcount_reducer.md R126). -/
def execAclr (s : State) : Host.Outcome State Fault Refusal :=
  .next (s.setAcc 0)

end Sys2Proof.Machine
end

