-- ==== Sys2Proof/Machine/Dispatch.lean ====
section
/-! DEFINITION. Executing a decoded command (30_encoding.md R100): one arm per constructor of `Instr`, each a
direct call of that command's meaning. -/

namespace Sys2Proof.Machine

def exec (i : Instr) (s : State) : Host.Outcome State Fault Refusal :=
  match i with
  | .popc8 => Sys2Proof.Machine.execPopc8 s
  | .popc32 => Sys2Proof.Machine.execPopc32 s
  | .popc64 => Sys2Proof.Machine.execPopc64 s
  | .ghw => Sys2Proof.Machine.execGhw s
  | .xacc => Sys2Proof.Machine.execXacc s
  | .aclr => Sys2Proof.Machine.execAclr s
  | .hamw nwords => Sys2Proof.Machine.execHamw nwords s
  | .hamb nbytes => Sys2Proof.Machine.execHamb nbytes s
  | .setH4 codeSize => Sys2Proof.Machine.execSetH4 codeSize s
  | .setH8 codeSize => Sys2Proof.Machine.execSetH8 codeSize s
  | .setH16 codeSize => Sys2Proof.Machine.execSetH16 codeSize s
  | .setH20 codeSize => Sys2Proof.Machine.execSetH20 codeSize s
  | .setH32 codeSize => Sys2Proof.Machine.execSetH32 codeSize s
  | .setH64 codeSize => Sys2Proof.Machine.execSetH64 codeSize s
  | .setHdef codeSize => Sys2Proof.Machine.execSetHdef codeSize s
  | .setG8 codeSize => Sys2Proof.Machine.execSetG8 codeSize s
  | .setG16 codeSize => Sys2Proof.Machine.execSetG16 codeSize s
  | .setG32 codeSize => Sys2Proof.Machine.execSetG32 codeSize s
  | .setGm8 codeSize => Sys2Proof.Machine.execSetGm8 codeSize s
  | .cmp => Sys2Proof.Machine.execCmp s
  | .gsz => Sys2Proof.Machine.execGsz s

end Sys2Proof.Machine
end

