-- ==== Sys2Proof/WellFormed.lean ====
section
/-! DEFINITION. Which commands exist on a block. Every field of `Instr` is exactly as wide as its field of
the command word, so the one check left is the generalized-Hamming option (30_encoding.md R96). -/

namespace Sys2Proof

/-- Does the command exist on a block whose GH_PRESENT is `gh`? GHW and SET of the kinds G8, G16, G32 and
GM8 exist only when it is true (30_encoding.md R94, R95, R96). -/
def Instr.wellFormed (gh : Bool) : Instr → Bool
  | .popc8 => true
  | .popc32 => true
  | .popc64 => true
  | .ghw => gh
  | .xacc => true
  | .aclr => true
  | .hamw _ => true
  | .hamb _ => true
  | .setH4 _ => true
  | .setH8 _ => true
  | .setH16 _ => true
  | .setH20 _ => true
  | .setH32 _ => true
  | .setH64 _ => true
  | .setHdef _ => true
  | .setG8 _ => gh
  | .setG16 _ => gh
  | .setG32 _ => gh
  | .setGm8 _ => gh
  | .cmp => true
  | .gsz => true

end Sys2Proof
end

