-- ==== Sys2Proof/Decode.lean ====
section
/-! DEFINITION. Command words: fields, opcodes, KIND codes, the decoder in the order of 30_encoding.md R100,
the encoder of R91, and the match and mask rows of R99. -/

namespace Sys2Proof

/-- The eleven operations an OPC names (30_encoding.md R94). -/
inductive Opc where
  | popc8 | popc32 | popc64 | ghw | xacc | aclr | hamw | hamb | set | cmp | gsz
  deriving DecidableEq, Repr

/-- OPC of each operation (30_encoding.md R94). -/
def Opc.code : Opc → BitVec 8
  | .popc8 => 0x10#8
  | .popc32 => 0x11#8
  | .popc64 => 0x12#8
  | .ghw => 0x13#8
  | .xacc => 0x14#8
  | .aclr => 0x15#8
  | .hamw => 0x20#8
  | .hamb => 0x21#8
  | .set => 0x30#8
  | .cmp => 0x31#8
  | .gsz => 0x32#8

/-- The operation of an OPC; every OPC not listed is illegal (30_encoding.md R93, R94). -/
def Opc.ofCode (opc : BitVec 8) : Option Opc :=
  match opc.toNat with
  | 0x10 => some .popc8
  | 0x11 => some .popc32
  | 0x12 => some .popc64
  | 0x13 => some .ghw
  | 0x14 => some .xacc
  | 0x15 => some .aclr
  | 0x20 => some .hamw
  | 0x21 => some .hamb
  | 0x30 => some .set
  | 0x31 => some .cmp
  | 0x32 => some .gsz
  | _ => none

/-- Does the operation take a LEN operand? (30_encoding.md R91) -/
def Opc.takesLen : Opc → Bool
  | .hamw | .hamb | .set => true
  | .popc8 | .popc32 | .popc64 | .ghw | .xacc | .aclr | .cmp | .gsz => false

/-- KIND code of each variant (30_encoding.md R95). -/
def Kind.code : Kind → BitVec 4
  | .h4 => 0x0#4
  | .h8 => 0x1#4
  | .h16 => 0x2#4
  | .h20 => 0x3#4
  | .h32 => 0x4#4
  | .h64 => 0x5#4
  | .hdef => 0x6#4
  | .g8 => 0x8#4
  | .g16 => 0x9#4
  | .g32 => 0xA#4
  | .gm8 => 0xB#4

/-- The variant of a KIND code; 0x7 and 0xC to 0xF are reserved (30_encoding.md R95). -/
def Kind.ofCode (kind : BitVec 4) : Option Kind :=
  match kind.toNat with
  | 0x0 => some .h4
  | 0x1 => some .h8
  | 0x2 => some .h16
  | 0x3 => some .h20
  | 0x4 => some .h32
  | 0x5 => some .h64
  | 0x6 => some .hdef
  | 0x8 => some .g8
  | 0x9 => some .g16
  | 0xA => some .g32
  | 0xB => some .gm8
  | _ => none

/-- SET of a variant with a code size (30_encoding.md R94, R95). -/
def Instr.ofSet (k : Kind) (codeSize : BitVec 16) : Instr :=
  match k with
  | .h4 => .setH4 codeSize
  | .h8 => .setH8 codeSize
  | .h16 => .setH16 codeSize
  | .h20 => .setH20 codeSize
  | .h32 => .setH32 codeSize
  | .h64 => .setH64 codeSize
  | .hdef => .setHdef codeSize
  | .g8 => .setG8 codeSize
  | .g16 => .setG16 codeSize
  | .g32 => .setG32 codeSize
  | .gm8 => .setGm8 codeSize

/-- Why a 64-bit CMD value is illegal, one name per check of 30_encoding.md R96. Every one of them raises
the same Error(ILLEGAL). -/
inductive Illegal where
  /-- `cmd[63:32] ≠ 0` or `RSV ≠ 0` -/
  | reservedBits
  /-- OPC not in 30_encoding.md R94 -/
  | unassignedOpcode
  /-- KIND ≠ 0 on a command other than SET -/
  | kindNotZero
  /-- LEN ≠ 0 on a command that takes no length -/
  | lenNotZero
  /-- SET with KIND 0x7 or 0xC to 0xF -/
  | reservedKind
  /-- GHW or SET of a G kind while GH_PRESENT is false -/
  | generalizedAbsent
  deriving DecidableEq, Repr

/-- OPC, `cmd[7:0]` (30_encoding.md R91). -/
def cmdOpc (cmd : Word) : BitVec 8 := cmd.extractLsb' 0 8
/-- KIND, `cmd[11:8]`. -/
def cmdKind (cmd : Word) : BitVec 4 := cmd.extractLsb' 8 4
/-- RSV, `cmd[15:12]`. -/
def cmdRsv (cmd : Word) : BitVec 4 := cmd.extractLsb' 12 4
/-- LEN, `cmd[31:16]`. -/
def cmdLen (cmd : Word) : BitVec 16 := cmd.extractLsb' 16 16
/-- The reserved upper half, `cmd[63:32]`. -/
def cmdHigh (cmd : Word) : BitVec 32 := cmd.extractLsb' 32 32

/-- The command of an operation with its fields; none for SET with a reserved KIND. -/
def Instr.ofFields (op : Opc) (kind : BitVec 4) (len : BitVec 16) : Option Instr :=
  match op with
  | .popc8 => some .popc8
  | .popc32 => some .popc32
  | .popc64 => some .popc64
  | .ghw => some .ghw
  | .xacc => some .xacc
  | .aclr => some .aclr
  | .hamw => some (.hamw len)
  | .hamb => some (.hamb len)
  | .set => (Kind.ofCode kind).map fun k => Instr.ofSet k len
  | .cmp => some .cmp
  | .gsz => some .gsz

/-- The decoder, its checks in the order of 30_encoding.md R100, on a block whose GH_PRESENT is `gh`. -/
def decode (gh : Bool) (cmd : Word) : Except Illegal Instr :=
  if cmdHigh cmd ≠ 0 ∨ cmdRsv cmd ≠ 0 then .error .reservedBits
  else
    match Opc.ofCode (cmdOpc cmd) with
    | none => .error .unassignedOpcode
    | some op =>
      if op ≠ .set ∧ cmdKind cmd ≠ 0 then .error .kindNotZero
      else if op.takesLen = false ∧ cmdLen cmd ≠ 0 then .error .lenNotZero
      else
        match Instr.ofFields op (cmdKind cmd) (cmdLen cmd) with
        | none => .error .reservedKind
        | some i => if i.wellFormed gh then .ok i else .error .generalizedAbsent

/-- The instruction the decoder reads from an opcode-table word: bits above `nbits` are 0, and a value of
more than 64 bits is no command (30_encoding.md R90). The rows all exist with GH_PRESENT true. -/
def decodeTableWord (nbits w : Nat) : Option Instr :=
  let v := w % 2 ^ nbits
  if v < 2 ^ 64 then
    match decode true (BitVec.ofNat 64 v) with
    | .ok i => some i
    | .error _ => none
  else none

/-- A command value from its fields, `(LEN << 16) | (KIND << 8) | OPC` (30_encoding.md R91). -/
def packCmd (op : Opc) (kind : BitVec 4) (len : BitVec 16) : Word :=
  (0#32 ++ len ++ 0#4 ++ kind ++ op.code : BitVec (32 + 16 + 4 + 4 + 8))

/-- The CMD value of a command (30_encoding.md R91, R94, R95). -/
def encode : Instr → Word
  | .popc8 => packCmd .popc8 0 0
  | .popc32 => packCmd .popc32 0 0
  | .popc64 => packCmd .popc64 0 0
  | .ghw => packCmd .ghw 0 0
  | .xacc => packCmd .xacc 0 0
  | .aclr => packCmd .aclr 0 0
  | .hamw len => packCmd .hamw 0 len
  | .hamb len => packCmd .hamb 0 len
  | .setH4 len => packCmd .set Kind.h4.code len
  | .setH8 len => packCmd .set Kind.h8.code len
  | .setH16 len => packCmd .set Kind.h16.code len
  | .setH20 len => packCmd .set Kind.h20.code len
  | .setH32 len => packCmd .set Kind.h32.code len
  | .setH64 len => packCmd .set Kind.h64.code len
  | .setHdef len => packCmd .set Kind.hdef.code len
  | .setG8 len => packCmd .set Kind.g8.code len
  | .setG16 len => packCmd .set Kind.g16.code len
  | .setG32 len => packCmd .set Kind.g32.code len
  | .setGm8 len => packCmd .set Kind.gm8.code len
  | .cmp => packCmd .cmp 0 0
  | .gsz => packCmd .gsz 0 0

/-- One row of 30_encoding.md R99: a CMD value is of this row when its bits under the mask are the match. -/
structure EncodingRow where
  mnemonic : String
  matchBits : Word
  mask : Word
  deriving DecidableEq, Repr

/-- The rows whose mask covers all 64 bits (30_encoding.md R99). -/
def fixedRows : List EncodingRow :=
  [ ⟨"POPC8", 0x10#64, 0xFFFFFFFFFFFFFFFF#64⟩, ⟨"POPC32", 0x11#64, 0xFFFFFFFFFFFFFFFF#64⟩,
    ⟨"POPC64", 0x12#64, 0xFFFFFFFFFFFFFFFF#64⟩, ⟨"GHW", 0x13#64, 0xFFFFFFFFFFFFFFFF#64⟩,
    ⟨"XACC", 0x14#64, 0xFFFFFFFFFFFFFFFF#64⟩, ⟨"ACLR", 0x15#64, 0xFFFFFFFFFFFFFFFF#64⟩,
    ⟨"CMP", 0x31#64, 0xFFFFFFFFFFFFFFFF#64⟩, ⟨"GSZ", 0x32#64, 0xFFFFFFFFFFFFFFFF#64⟩ ]

/-- The rows whose mask leaves LEN free (30_encoding.md R99). -/
def lengthRows : List EncodingRow :=
  [ ⟨"HAMW", 0x20#64, 0xFFFFFFFF0000FFFF#64⟩, ⟨"HAMB", 0x21#64, 0xFFFFFFFF0000FFFF#64⟩,
    ⟨"SET.H4", 0x0030#64, 0xFFFFFFFF0000FFFF#64⟩, ⟨"SET.H8", 0x0130#64, 0xFFFFFFFF0000FFFF#64⟩,
    ⟨"SET.H16", 0x0230#64, 0xFFFFFFFF0000FFFF#64⟩, ⟨"SET.H20", 0x0330#64, 0xFFFFFFFF0000FFFF#64⟩,
    ⟨"SET.H32", 0x0430#64, 0xFFFFFFFF0000FFFF#64⟩, ⟨"SET.H64", 0x0530#64, 0xFFFFFFFF0000FFFF#64⟩,
    ⟨"SET.HDEF", 0x0630#64, 0xFFFFFFFF0000FFFF#64⟩, ⟨"SET.G8", 0x0830#64, 0xFFFFFFFF0000FFFF#64⟩,
    ⟨"SET.G16", 0x0930#64, 0xFFFFFFFF0000FFFF#64⟩, ⟨"SET.G32", 0x0A30#64, 0xFFFFFFFF0000FFFF#64⟩,
    ⟨"SET.GM8", 0x0B30#64, 0xFFFFFFFF0000FFFF#64⟩ ]

/-- All 21 rows of 30_encoding.md R99. -/
def encodingRows : List EncodingRow := fixedRows ++ lengthRows

/-- Is the CMD value of this row? -/
def EncodingRow.admits (r : EncodingRow) (cmd : Word) : Bool :=
  cmd &&& r.mask == r.matchBits

/-- The mnemonic of each command, as the opcode table spells it (30_encoding.md R94, R95, R101). -/
def Instr.mnemonic : Instr → String
  | .popc8 => "POPC8"
  | .popc32 => "POPC32"
  | .popc64 => "POPC64"
  | .ghw => "GHW"
  | .xacc => "XACC"
  | .aclr => "ACLR"
  | .hamw _ => "HAMW"
  | .hamb _ => "HAMB"
  | .setH4 _ => "SET.H4"
  | .setH8 _ => "SET.H8"
  | .setH16 _ => "SET.H16"
  | .setH20 _ => "SET.H20"
  | .setH32 _ => "SET.H32"
  | .setH64 _ => "SET.H64"
  | .setHdef _ => "SET.HDEF"
  | .setG8 _ => "SET.G8"
  | .setG16 _ => "SET.G16"
  | .setG32 _ => "SET.G32"
  | .setGm8 _ => "SET.GM8"
  | .cmp => "CMP"
  | .gsz => "GSZ"

end Sys2Proof
end

