-- ==== Sys2Proof/Machine/Flags.lean ====
section
/-! DEFINITION. The block's only flag register, STATUS, and the constant registers ID and CAP
(10_state.md R24, R25, R27, R42). -/

namespace Sys2Proof.Machine

/-- ERRCODE of each error (60_exceptions.md R251). -/
def ErrorCode.code : ErrorCode → BitVec 4
  | .illegal => 1#4
  | .range => 2#4
  | .size => 3#4
  | .noref => 4#4
  | .access => 5#4

/-- STATUS.ERR, bit 0 (10_state.md R25). -/
def State.errBit (s : State) : Bool := s.error.isSome

/-- STATUS.ERRCODE, bits [7:4]; 0 when ERR is 0 (10_state.md R25; 60_exceptions.md R251). -/
def State.errCode (s : State) : BitVec 4 :=
  match s.error with
  | none => 0#4
  | some e => e.code

/-- STATUS.VALID, bit 8 (10_state.md R25, R33). -/
def State.validBit (s : State) : Bool := s.held.isSome

/-- STATUS.KIND, bits [15:12]; 0 when VALID is 0 (10_state.md R25). -/
def State.kindField (s : State) : BitVec 4 :=
  match s.held with
  | none => 0#4
  | some h => h.kind.code

/-- STATUS.LEN, bits [31:16]; 0 when VALID is 0 (10_state.md R25). -/
def State.lenField (s : State) : BitVec 16 :=
  match s.held with
  | none => 0#16
  | some h => h.len

/-- STATUS as the host reads it; bits [3:1], [11:9] and [63:32] are 0 (10_state.md R25). -/
def State.statusWord (s : State) : Word :=
  (0#32 ++ s.lenField ++ s.kindField ++ 0#3 ++ BitVec.ofBool s.validBit ++ s.errCode ++ 0#3 ++
    BitVec.ofBool s.errBit : BitVec (32 + 16 + 4 + 3 + 1 + 4 + 3 + 1))

/-- A host write to STATUS: bit 0 set clears the error, all other bits are ignored (10_state.md R26). -/
def State.writeStatus (s : State) (v : Word) : State :=
  if v.getLsbD 0 then s.clearError else s

/-- ID: the bytes "HDC1", VERSION 1 (10_state.md R24). -/
def idValue : Word := 0x0000000148444331#64

/-- CAP: ACCEL, GH and MAXB (10_state.md R27). -/
def capValue (p : Params) : Word :=
  (0#32 ++ BitVec.ofNat 16 p.maxCodeBytes ++ 0#14 ++ BitVec.ofBool p.ghPresent ++
    BitVec.ofBool p.accelPresent : BitVec (32 + 16 + 14 + 1 + 1))

end Sys2Proof.Machine
end

