-- ==== Sys2Proof/Machine/Window.lean ====
section
/-! DEFINITION. The register window (10_state.md R22; 20_memory.md R62 to R68): which access reaches what,
what a read returns, what a write does, and bad accesses. A write to CMD stands in HostPort.lean. -/

namespace Sys2Proof.Machine

/-- The eight registers (10_state.md R22). -/
inductive Reg where
  | id | cap | status | cmd | result | acc | opa | opb
  deriving DecidableEq, Repr

/-- What an access that is not bad reaches: a register, or bytes of BUF_A or BUF_B from an index on
(20_memory.md R62). -/
inductive Target where
  | register (r : Reg)
  | bufA (index : Nat)
  | bufB (index : Nat)
  deriving DecidableEq, Repr

/-- The register at a window offset (10_state.md R22). -/
def Reg.ofOffset (off : Nat) : Option Reg :=
  match off with
  | 0x00 => some .id
  | 0x08 => some .cap
  | 0x10 => some .status
  | 0x18 => some .cmd
  | 0x20 => some .result
  | 0x28 => some .acc
  | 0x30 => some .opa
  | 0x38 => some .opb
  | _ => none

/-- What an access of `n` bytes at offset `off` reaches, none for a bad access: a register only with 8 bytes
at its own offset (20_memory.md R64), a buffer only naturally aligned and wholly inside (R65), nothing at a
reserved offset (R62, R68, R69). -/
def locate (p : Params) (off : BitVec 16) (n : Size) : Option Target :=
  let o := off.toNat
  let k := n.bytes
  if o < 0x40 then
    if n = .s8 then (Reg.ofOffset o).map .register else none
  else if o % k ≠ 0 then none
  else if bufABase ≤ o ∧ o + k ≤ bufABase + p.maxCodeBytes then some (.bufA (o - bufABase))
  else if bufBBase ≤ o ∧ o + k ≤ bufBBase + p.maxCodeBytes then some (.bufB (o - bufBBase))
  else none

/-- The value of a register as the host reads it; CMD reads as 0 (20_memory.md R66; 10_state.md R32). -/
def State.readReg (s : State) : Reg → Word
  | .id => idValue
  | .cap => capValue s.params
  | .status => s.statusWord
  | .cmd => 0
  | .result => s.result
  | .acc => s.acc
  | .opa => s.opa
  | .opb => s.opb

/-- `MemRead` of 20_memory.md R66. -/
def State.readTarget (s : State) (n : Size) : Target → Value
  | .register r => .v8 (s.readReg r)
  | .bufA p => Value.ofBytes n fun j => s.byteA (p + j)
  | .bufB p => Value.ofBytes n fun j => s.byteB (p + j)

/-- A bad access: no register, buffer or comparator state changes; ACCESS is raised unless an error is
already held (20_memory.md R68). -/
def State.badAccess (s : State) : State := s.raise .access

/-- A host read: the value is given back and nothing else changes; a bad read gives 0
(20_memory.md R66, R68). -/
def State.hostRead (s : State) (off : BitVec 16) (n : Size) : State :=
  match locate s.params off n with
  | some t => s.observe (s.readTarget n t)
  | none => s.badAccess.observe (Value.zero n)

/-- The 64 bits a register write carries (20_memory.md R64: registers are written with 8 bytes). -/
def Value.word : Value → Word
  | .v1 v => v.setWidth 64
  | .v2 v => v.setWidth 64
  | .v4 v => v.setWidth 64
  | .v8 v => v

/-- A write to a register other than CMD; ID, CAP and RESULT ignore it (20_memory.md R67). -/
def State.writeReg (s : State) (r : Reg) (v : Word) : State :=
  match r with
  | .id | .cap | .result => s
  | .status => s.writeStatus v
  | .cmd => s
  | .acc => s.setAcc v
  | .opa => s.setOpa v
  | .opb => s.setOpb v

end Sys2Proof.Machine
end

