-- ==== Sys2Proof/Machine/HostPort.lean ====
section
/-! DEFINITION. Serving the host: a write to CMD decodes and executes a command (10_state.md R32;
30_encoding.md R100), other writes follow 20_memory.md R67, and reset. -/

namespace Sys2Proof.Machine

/-- A write of `v` to CMD: discarded undecoded while ERR is 1 (60_exceptions.md R254), else decoded and
executed (10_state.md R32); an illegal command raises ILLEGAL and does nothing else (30_encoding.md R96). -/
def writeCmd (v : Word) (s : State) : Host.Outcome State Fault Refusal :=
  match s.error with
  | some _ => .next s
  | none =>
    match decode s.params.ghPresent v with
    | .ok i => exec i s
    | .error _ => .next (s.raise .illegal)

/-- `MemWrite` of 20_memory.md R67; a bad write is dropped (R68). -/
def hostWrite (off : BitVec 16) (v : Value) (s : State) : Host.Outcome State Fault Refusal :=
  match locate s.params off v.size with
  | none => .next s.badAccess
  | some (.register .cmd) => writeCmd v.word s
  | some (.register r) => .next (s.writeReg r v.word)
  | some (.bufA p) => .next (s.storeBytes (bufABase + p) v.size.bytes v.byte)
  | some (.bufB p) => .next (s.storeBytes (bufBBase + p) v.size.bytes v.byte)

/-- One move of the outside world, served whole (20_memory.md R70, R73; 70_reset_and_hazards.md R280). -/
def serve (e : HostEvent) (s : State) : Host.Outcome State Fault Refusal :=
  match e with
  | .access (.read off n) => .next (s.hostRead off n)
  | .access (.write off v) => hostWrite off v s
  | .reset => .next s.resetBlock

/-- The window offset of CMD (10_state.md R22). -/
def cmdOffset : BitVec 16 := 0x0018#16

/-- The host's write of a value to CMD (30_encoding.md R101). -/
def cmdWrite (v : Word) : HostEvent := .access (.write cmdOffset (.v8 v))

/-- The CMD value of an opcode-table word: bits above `nbits` are 0 (30_encoding.md R90). -/
def tableWord (nbits w : Nat) : Word := BitVec.ofNat 64 (w % 2 ^ nbits)

/-- One step of the machine: the next thing the outside world does is served; between accesses the block does
nothing (70_reset_and_hazards.md R288). -/
def stepOnce (s : State) : Host.Outcome State Fault Refusal :=
  match s.pending with
  | [] => .next s
  | e :: rest => serve e (s.withPending rest)

end Sys2Proof.Machine
end

