-- ==== Sys2Proof/Machine/Step.lean ====
section
/-! DEFINITION. One step of the machine, and how an instruction is put where the next step runs it. -/

namespace Sys2Proof.Machine

/-- One step: the host's next move is served (20_memory.md R73). -/
def step (s : State) : Host.Outcome State Fault Refusal := stepOnce s

/-- The state in which the host's next move is the CMD write of an opcode-table word. The block fetches
nothing (10_state.md R21), so this stands for the host issuing the command; ERR is cleared as CLRERR does,
because a command write is discarded while ERR is 1 (60_exceptions.md R254; log entry 6). -/
def State.withFetchWord (s : State) (nbits w : Nat) : State :=
  s.clearError.withPending (cmdWrite (tableWord nbits w) :: s.pending)

end Sys2Proof.Machine
end

