-- ==== Sys2Proof/Machine/Assembler.lean ====
section
/-! DEFINITION. The assembler of 30_encoding.md R101 to R103: lines for commands, pseudo-instructions and host
accesses, what each assembles to, and their text. A host's program is the list of what its lines assemble
to. What the rules leave open about the text is in log entry 15. -/

namespace Sys2Proof.Machine

/-- One line of a host program (30_encoding.md R101, R102, R103). -/
inductive AsmLine where
  | command (i : Instr)
  | ham64 | ham128 | ham256
  | hamBits (nbits : Nat)
  | clrErr
  | store (off : BitVec 16) (v : Value)
  | load (off : BitVec 16) (n : Size)
  deriving DecidableEq, Repr

/-- A 16-bit operand, if the number fits LEN (30_encoding.md R92). -/
def lenOperand (n : Nat) : Option (BitVec 16) :=
  if n < 0x10000 then some (BitVec.ofNat 16 n) else none

/-- What a line assembles to: a host access (30_encoding.md R101, R102), pseudo-instructions by their
expansion (R103). HAMBITS of a number of bits that is not a multiple of 8 does not assemble (R103). -/
def AsmLine.assemble : AsmLine → Option HostEvent
  | .command i => some (cmdWrite (encode i))
  | .ham64 => some (cmdWrite (encode (.hamw 1)))
  | .ham128 => some (cmdWrite (encode (.hamw 2)))
  | .ham256 => some (cmdWrite (encode (.hamw 4)))
  | .hamBits nbits =>
    if nbits % 64 = 0 then (lenOperand (nbits / 64)).map fun l => cmdWrite (encode (.hamw l))
    else if nbits % 8 = 0 then (lenOperand (nbits / 8)).map fun l => cmdWrite (encode (.hamb l))
    else none
  | .clrErr => some (.access (.write 0x0010#16 (.v8 1)))
  | .store off v => some (.access (.write off v))
  | .load off n => some (.access (.read off n))

/-! ### Text -/

/-- The line without its comment, which starts with `#` (30_encoding.md R101). DESIGN CHOICE: a `#` anywhere
in a line starts one, and it ends with the line (log entry 15). -/
def dropComment : List Char → List Char
  | [] => []
  | c :: cs => if c = '#' then [] else c :: dropComment cs

/-- The tokens of a line: separated by spaces or tabs, a comma a token of its own. -/
def tokens : List Char → List Char → List (List Char)
  | [], [] => []
  | [], word => [word.reverse]
  | c :: cs, word =>
    let done := if word = [] then [] else [word.reverse]
    if c = ' ' ∨ c = '\t' then done ++ tokens cs []
    else if c = ',' then done ++ [','] :: tokens cs []
    else tokens cs (c :: word)

/-- The value of a digit, decimal or hexadecimal. -/
def digitValue (c : Char) : Option Nat :=
  let n := c.toNat
  if 48 ≤ n ∧ n ≤ 57 then some (n - 48)
  else if 65 ≤ n ∧ n ≤ 70 then some (n - 55)
  else if 97 ≤ n ∧ n ≤ 102 then some (n - 87)
  else none

/-- The value of the digits in a base after those read so far, whose value is `n`; `_` is skipped
(00_scope.md R8). DESIGN CHOICE: it is skipped first, last and repeated too (log entry 15). -/
def digits (base : Nat) : List Char → Nat → Option Nat
  | [], n => some n
  | c :: cs, n =>
    if c = '_' then digits base cs n
    else
      match digitValue c with
      | some d => if d < base then digits base cs (base * n + d) else none
      | none => none

/-- Is there anything but separators? -/
def notOnlySeparators (cs : List Char) : Bool := cs.any fun c => c != '_'

/-- A number, decimal or `0x` hexadecimal (30_encoding.md R101). DESIGN CHOICE: a token with no digit at all
(`0x`, `_`, `0x_`) is no number and does not assemble; the rules do not say (log entry 15). -/
def number : List Char → Option Nat
  | '0' :: 'x' :: cs => if notOnlySeparators cs then digits 16 cs 0 else none
  | cs => if notOnlySeparators cs then digits 10 cs 0 else none

/-- The symbolic offsets of 30_encoding.md R102. -/
def symbol (w : List Char) : Option Nat :=
  if w = "ID".toList then some 0x0000
  else if w = "CAP".toList then some 0x0008
  else if w = "STATUS".toList then some 0x0010
  else if w = "CMD".toList then some 0x0018
  else if w = "RESULT".toList then some 0x0020
  else if w = "ACC".toList then some 0x0028
  else if w = "OPA".toList then some 0x0030
  else if w = "OPB".toList then some 0x0038
  else if w = "BUFA".toList then some 0x1000
  else if w = "BUFB".toList then some 0x2000
  else none

/-- A word split at its first `+`. -/
def splitPlus : List Char → List Char × Option (List Char)
  | [] => ([], none)
  | c :: cs => if c = '+' then ([], some cs) else ((c :: (splitPlus cs).1), (splitPlus cs).2)

/-- A window offset: a number or a symbol, with a number added to a symbol (30_encoding.md R102; where `+` may
stand is in log entry 15). -/
def offset (w : List Char) : Option (BitVec 16) :=
  match splitPlus w with
  | (w, none) =>
    match symbol w with
    | some a => some (BitVec.ofNat 16 a)
    | none => (number w).bind lenOperand
  | (w, some more) =>
    match symbol w, number more with
    | some a, some n => lenOperand (a + n)
    | _, _ => none

/-- A value of an access size, if the number fits. -/
def valueOf (n : Size) (v : Nat) : Option Value :=
  match n with
  | .s1 => if v < 2 ^ 8 then some (.v1 (BitVec.ofNat 8 v)) else none
  | .s2 => if v < 2 ^ 16 then some (.v2 (BitVec.ofNat 16 v)) else none
  | .s4 => if v < 2 ^ 32 then some (.v4 (BitVec.ofNat 32 v)) else none
  | .s8 => if v < 2 ^ 64 then some (.v8 (BitVec.ofNat 64 v)) else none

/-- The access size of `st` or `ld` by its last digit (30_encoding.md R102). -/
def sizeOf (c : Char) : Option Size :=
  if c = '1' then some .s1
  else if c = '2' then some .s2
  else if c = '4' then some .s4
  else if c = '8' then some .s8
  else none

/-- A line of one word (30_encoding.md R101, R103). -/
def plainLine (w : List Char) : Option AsmLine :=
  if w = "POPC8".toList then some (.command .popc8)
  else if w = "POPC32".toList then some (.command .popc32)
  else if w = "POPC64".toList then some (.command .popc64)
  else if w = "GHW".toList then some (.command .ghw)
  else if w = "XACC".toList then some (.command .xacc)
  else if w = "ACLR".toList then some (.command .aclr)
  else if w = "CMP".toList then some (.command .cmp)
  else if w = "GSZ".toList then some (.command .gsz)
  else if w = "HAM64".toList then some .ham64
  else if w = "HAM128".toList then some .ham128
  else if w = "HAM256".toList then some .ham256
  else if w = "CLRERR".toList then some .clrErr
  else none

/-- The variant a SET mnemonic names (30_encoding.md R101). -/
def variant (w : List Char) : Option Kind :=
  if w = "SET.H4".toList then some .h4
  else if w = "SET.H8".toList then some .h8
  else if w = "SET.H16".toList then some .h16
  else if w = "SET.H20".toList then some .h20
  else if w = "SET.H32".toList then some .h32
  else if w = "SET.H64".toList then some .h64
  else if w = "SET.HDEF".toList then some .hdef
  else if w = "SET.G8".toList then some .g8
  else if w = "SET.G16".toList then some .g16
  else if w = "SET.G32".toList then some .g32
  else if w = "SET.GM8".toList then some .gm8
  else none

/-- A line of a mnemonic and a number (30_encoding.md R101, R103). -/
def numberLine (w : List Char) (n : Nat) : Option AsmLine :=
  if w = "HAMW".toList then (lenOperand n).map fun l => .command (.hamw l)
  else if w = "HAMB".toList then (lenOperand n).map fun l => .command (.hamb l)
  else if w = "HAMBITS".toList then some (.hamBits n)
  else
    match variant w, lenOperand n with
    | some k, some l => some (.command (Instr.ofSet k l))
    | _, _ => none

/-- `ldN off` (30_encoding.md R102). -/
def loadLine (w off : List Char) : Option AsmLine :=
  match w with
  | ['l', 'd', c] =>
    match sizeOf c, offset off with
    | some n, some o => some (.load o n)
    | _, _ => none
  | _ => none

/-- `stN off, v` (30_encoding.md R102). -/
def storeLine (w off v : List Char) : Option AsmLine :=
  match w with
  | ['s', 't', c] =>
    match sizeOf c, offset off, number v with
    | some n, some o, some x => (valueOf n x).map fun y => .store o y
    | _, _, _ => none
  | _ => none

/-- The line of some tokens; `ldN off -> v` shows a value and means `ldN off` (30_encoding.md R102). DESIGN
CHOICE: the value must be a number and is not looked at further (log entry 15). -/
def parseTokens : List (List Char) → Option AsmLine
  | [w] => plainLine w
  | [w, x] =>
    match loadLine w x with
    | some l => some l
    | none => (number x).bind fun n => numberLine w n
  | [w, x, y, z] =>
    if y = [','] then storeLine w x z
    else if y = ['-', '>'] then (number z).bind fun _ => loadLine w x
    else none
  | _ => none

/-- Read one line of text: none when it does not assemble, `some none` when it is blank or only a comment.
DESIGN CHOICE: 30_encoding.md R101 does not say what such a line is; here it is no command and assembles to no
host access (log entry 15). -/
def parseLine (text : String) : Option (Option AsmLine) :=
  match tokens (dropComment text.toList) [] with
  | [] => some none
  | ts => (parseTokens ts).map some

/-- The host accesses a program's lines assemble to, in order. DESIGN CHOICE: none for the whole program when
a line does not assemble (log entry 15). -/
def assembleProgram : List String → Option (List HostEvent)
  | [] => some []
  | t :: ts =>
    match parseLine t, assembleProgram ts with
    | some none, some es => some es
    | some (some l), some es => l.assemble.map fun e => e :: es
    | _, _ => none

end Sys2Proof.Machine
end

