-- ==== Sys2Proof/Machine/Realizations.lean ====
section
/-! DEFINITION. The realizations the spec describes beside the defining forms: the 512-bit path of H64 and
HDEF, selected by ACCEL_PRESENT (42_hamming_comparators.md R186, R188; 10_state.md R38), the compare mask of
G16, G32 and GM8 (43_generalized_hamming.md R227, R230), and the shift-OR form of ghw
(40_popcount_reducer.md R128). They are not observable (10_state.md R39), so the meaning of CMP uses the
defining forms (93_implementation_defined.md U12) and these stand to be proved equal to them (log entry 12). -/

namespace Sys2Proof.Machine

/-- The 512-bit vector of words `i … i+7`, word `i` in the lowest lane (42_hamming_comparators.md R186). -/
def block512 (x : Nat → Byte) (i : Nat) : BitVec 512 :=
  (wordOf x (i + 7) ++ wordOf x (i + 6) ++ wordOf x (i + 5) ++ wordOf x (i + 4) ++
    wordOf x (i + 3) ++ wordOf x (i + 2) ++ wordOf x (i + 1) ++ wordOf x i :
    BitVec (64 + 64 + 64 + 64 + 64 + 64 + 64 + 64))

/-- One wide XOR, a population count in each 64-bit lane, and the sum of the eight lanes
(42_hamming_comparators.md R186). -/
def wideDistance (x y : Nat → Byte) (i : Nat) : Nat :=
  sumTo 8 fun l => popcount ((block512 x i ^^^ block512 y i).extractLsb' (64 * l) 64)

/-- CMP of H64 as the block realizes it (42_hamming_comparators.md R186). -/
def realizedH64 (accel : Bool) (x y : Nat → Byte) : Nat :=
  if accel then wideDistance x y 0 else sumTo 8 fun i => xpop (wordOf x i) (wordOf y i)

/-- The loop over runs of 8 words: the next word and the sum so far. `fuel` bounds the iterations; the
number of words is always enough (42_hamming_comparators.md R188). -/
def wideGroups (x y : Nat → Byte) (q : Nat) : (fuel i sum : Nat) → Nat × Nat
  | 0, i, sum => (i, sum)
  | fuel + 1, i, sum =>
    if i + 8 ≤ q then wideGroups x y q fuel (i + 8) (sum + wideDistance x y i) else (i, sum)

/-- The scalar tail: the words from `i` on, one at a time (42_hamming_comparators.md R188). -/
def scalarTail (x y : Nat → Byte) (q : Nat) : (fuel i sum : Nat) → Nat
  | 0, _, sum => sum
  | fuel + 1, i, sum =>
    if i < q then scalarTail x y q fuel (i + 1) (sum + xpop (wordOf x i) (wordOf y i)) else sum

/-- CMP of HDEF as the block realizes it (42_hamming_comparators.md R188). -/
def realizedHdef (accel : Bool) (x y : Nat → Byte) (len : Nat) : Nat :=
  let q := len / 8
  let body := if accel then wideGroups x y q q 0 0 else (0, 0)
  scalarTail x y q q body.1 body.2 +
    sumTo (len % 8) fun j => (poptab (x (8 * q + j) ^^^ y (8 * q + j))).toNat

/-- The `n`-bit value whose bit `i` is `f(i)`. -/
def ofBits : (n : Nat) → (Nat → Bool) → BitVec n
  | 0, _ => 0#0
  | n + 1, f => BitVec.cons (f n) (ofBits n f)

/-- The per-byte equality mask `E[i]` (43_generalized_hamming.md R227). -/
def equalityMask (x y : Nat → Byte) (i : Nat) : Byte :=
  if x i = y i then 0xFF#8 else 0x00#8

/-- The matching bytes as a bit mask, one bit per byte lane (43_generalized_hamming.md R227). -/
def matchMask (w : Nat) (x y : Nat → Byte) : BitVec w :=
  ofBits w fun i => (equalityMask x y i).getLsbD 7

/-- `W − popcount_W(m)` (43_generalized_hamming.md R227). -/
def maskDistance (w : Nat) (x y : Nat → Byte) : Nat :=
  w - popcount (matchMask w x y)

/-- The loop over 32-byte blocks, then the next word and the sum so far (43_generalized_hamming.md R230). -/
def maskBlocks (x y : Nat → Byte) (n : Nat) : (fuel k sum : Nat) → Nat × Nat
  | 0, k, sum => (k, sum)
  | fuel + 1, k, sum =>
    if k + 4 ≤ n then
      maskBlocks x y n fuel (k + 4)
        (sum + maskDistance 32 (fun b => x (8 * k + b)) fun b => y (8 * k + b))
    else (k, sum)

/-- The remaining single words (43_generalized_hamming.md R230). -/
def ghwTail (x y : Nat → Byte) (n : Nat) : (fuel k sum : Nat) → Nat
  | 0, _, sum => sum
  | fuel + 1, k, sum =>
    if k < n then ghwTail x y n fuel (k + 1) (sum + ghw (wordOf x k ^^^ wordOf y k)) else sum

/-- CMP of GM8 as the block realizes it (43_generalized_hamming.md R230). -/
def realizedGm8 (x y : Nat → Byte) (len : Nat) : Nat :=
  let n := len / 8
  let body := maskBlocks x y n n 0 0
  ghwTail x y n n body.1 body.2

/-- The distance CMP computes, as the block realizes it: ACCEL_PRESENT selects the path of H64 and HDEF
(10_state.md R38), G16, G32 and GM8 use the compare mask, and the other variants have one form only. -/
def State.cmpRealized (s : State) (h : Held) : Nat :=
  match h.kind with
  | .h4 => s.cmpH4
  | .h8 => s.cmpH8
  | .h16 => s.cmpH16
  | .h20 => s.cmpH20
  | .h32 => s.cmpH32
  | .h64 => realizedH64 s.params.accelPresent s.byteRef s.byteB
  | .hdef => realizedHdef s.params.accelPresent s.byteRef s.byteB h.len.toNat
  | .g8 => s.cmpG8
  | .g16 => maskDistance 16 s.byteRef s.byteB
  | .g32 => maskDistance 32 s.byteRef s.byteB
  | .gm8 => realizedGm8 s.byteRef s.byteB h.len.toNat

/-- The shift-OR realization of the generalized-Hamming word function (40_popcount_reducer.md R128;
93_implementation_defined.md G1). -/
def ghwShiftOr (v : Word) : Nat :=
  let t := v ||| v >>> 1
  let t := t ||| t >>> 2
  let t := t ||| t >>> 4
  popcount (t &&& 0x0101010101010101#64)

end Sys2Proof.Machine
end

