-- ==== Sys2Proof/Safety.lean ====
section
/-! DEFINITION. What claims mean by a good state and a good run: the invariant of the block, the end of a run
(70_reset_and_hazards.md R288) and the host's duties (R283). -/

namespace Sys2Proof.Machine

/-- Only bytes of BUF_A and BUF_B have storage: a reserved offset has none (20_memory.md R62, R69). -/
def bufferPlaces (p : Params) (m : Memory) : Prop :=
  ∀ c ∈ m, (bufABase ≤ c.1 ∧ c.1 < bufABase + p.maxCodeBytes) ∨
    (bufBBase ≤ c.1 ∧ c.1 < bufBBase + p.maxCodeBytes)

/-- REF has MAX_CODE_BYTES bytes (10_state.md R33). -/
def refPlaces (p : Params) (m : Memory) : Prop :=
  ∀ c ∈ m, c.1 < p.maxCodeBytes

/-- While VALID is 1, LEN is the variant's legal code size and at most MAX_CODE_BYTES (10_state.md R33;
42_hamming_comparators.md R191), a G kind means GH_PRESENT (43_generalized_hamming.md R231), and SET has
written every byte of the reference (10_state.md R34). -/
def comparatorLegal (s : State) : Prop :=
  ∀ h, s.held = some h →
    legalSize h.kind h.len.toNat = true ∧ h.len.toNat ≤ s.params.maxCodeBytes ∧
      (isGeneralized h.kind = true → s.params.ghPresent = true) ∧
      ∀ i < h.len.toNat, (s.ref.find i).isSome = true

/-- The invariant of the block; every step keeps it. -/
structure State.Inv (s : State) : Prop where
  /-- the parameters are ones 00_scope.md R6 allows -/
  params : s.params.wf
  /-- the buffers are in canonical form -/
  memForm : s.mem.wf
  /-- and hold nothing at a reserved offset -/
  memPlaces : bufferPlaces s.params s.mem
  /-- the reference store is in canonical form -/
  refForm : s.ref.wf
  /-- and has no byte beyond its size -/
  refPlaces : Machine.refPlaces s.params s.ref
  /-- the comparator is legal -/
  comparator : comparatorLegal s
  /-- RESULT is at most the largest distance, 8·MAX_CODE_BYTES (00_scope.md R7; 10_state.md R28) -/
  result : s.result.toNat ≤ 8 * s.params.maxCodeBytes

/-! ### What an instruction leaves unchanged -/

/-- Every byte of BUF_A and BUF_B reads as before. -/
def State.sameBuffers (s t : State) : Prop := ∀ a, t.byteAt a = s.byteAt a

/-- VALID, KIND, LEN and every byte of REF are as before. -/
def State.sameComparator (s t : State) : Prop := t.held = s.held ∧ ∀ i, t.byteRef i = s.byteRef i

/-- The parameters, the host's further moves, what it has read and the count of resets are as before. -/
def State.sameSurroundings (s t : State) : Prop :=
  t.params = s.params ∧ t.pending = s.pending ∧ t.observed = s.observed ∧ t.resets = s.resets

/-! ### Runs -/

/-- A run ended in error when its final STATUS.ERR is 1 (70_reset_and_hazards.md R288). -/
def State.endedInError (s : State) : Prop := s.errBit = true

/-- The host has written the first `n` bytes of BUF_A, as it must before SET, HAMW and HAMB
(70_reset_and_hazards.md R283). -/
def State.writtenA (s : State) (n : Nat) : Prop :=
  ∀ i < n, (s.mem.find (bufABase + i)).isSome = true

/-- The host has written the first `n` bytes of BUF_B, as it must before CMP, HAMW and HAMB
(70_reset_and_hazards.md R283). -/
def State.writtenB (s : State) (n : Nat) : Prop :=
  ∀ i < n, (s.mem.find (bufBBase + i)).isSome = true

end Sys2Proof.Machine
end

