-- ==== Sys2Proof/Certificates/Slice0/Obligations.lean ====
section
/-! DEFINITION. The statements for the provers. A statement about a command holds for a state with
STATUS.ERR = 0, because a command is executed only then (10_state.md R32; 60_exceptions.md R254). -/

open Sys2Proof Sys2Proof.Machine

/-! ### Words the statements use -/

/-- The registers as 70_reset_and_hazards.md R280 and 10_state.md R40 list them; REF, BUF_A and BUF_B are
unspecified and not spoken of. -/
def Sys2Proof.Claims.ResetValues (s : State) : Prop :=
  s.readReg .id = 0x0000000148444331#64 ∧ s.readReg .cap = capValue s.params ∧ s.readReg .status = 0 ∧
    s.errBit = false ∧ s.validBit = false ∧ s.readReg .result = 0 ∧ s.readReg .acc = 0 ∧
    s.readReg .opa = 0 ∧ s.readReg .opb = 0

/-- When the fields of a CMD value make it illegal, in the words of 30_encoding.md R96. -/
abbrev Sys2Proof.Claims.IllegalFields (gh : Bool) (opc kind rsv len high : Nat) : Prop :=
  high ≠ 0 ∨ rsv ≠ 0 ∨
    opc ∉ [0x10, 0x11, 0x12, 0x13, 0x14, 0x15, 0x20, 0x21, 0x30, 0x31, 0x32] ∨
    (opc ≠ 0x30 ∧ kind ≠ 0) ∨
    (opc ∉ [0x30, 0x20, 0x21] ∧ len ≠ 0) ∨
    (opc = 0x30 ∧ kind ∈ [0x7, 0xC, 0xD, 0xE, 0xF]) ∨
    (gh = false ∧ (opc = 0x13 ∨ (opc = 0x30 ∧ kind ∈ [0x8, 0x9, 0xA, 0xB])))

/-- When a 64-bit CMD value is illegal (30_encoding.md R91, R96). -/
abbrev Sys2Proof.Claims.IllegalCmd (gh : Bool) (v : Word) : Prop :=
  Claims.IllegalFields gh (v.extractLsb' 0 8).toNat (v.extractLsb' 8 4).toNat (v.extractLsb' 12 4).toNat
    (v.extractLsb' 16 16).toNat (v.extractLsb' 32 32).toNat

/-- When an access is not bad, in the words of 20_memory.md R64 and R65. -/
abbrev Sys2Proof.Claims.GoodAccess (p : Params) (off : BitVec 16) (n : Size) : Prop :=
  (off.toNat < 0x40 ∧ n = .s8 ∧ off.toNat % 8 = 0) ∨
    (off.toNat % n.bytes = 0 ∧
      ((0x1000 ≤ off.toNat ∧ off.toNat + n.bytes ≤ 0x1000 + p.maxCodeBytes) ∨
        (0x2000 ≤ off.toNat ∧ off.toNat + n.bytes ≤ 0x2000 + p.maxCodeBytes)))

/-- The errors a decoded command can raise, from the table of 60_exceptions.md R257; ILLEGAL at execution is
only the missing generalized-Hamming option, which `exec` checks again as the model's choice (log entry 10). -/
def Sys2Proof.Claims.mayRaise : Instr → List ErrorCode
  | .popc8 | .popc32 | .popc64 | .xacc | .aclr => []
  | .ghw => [.illegal]
  | .hamw _ | .hamb _ => [.range]
  | .setH4 _ | .setH8 _ | .setH16 _ | .setH20 _ | .setH32 _ | .setH64 _ => [.range, .size]
  | .setHdef _ => [.range]
  | .setG8 _ | .setG16 _ | .setG32 _ | .setGm8 _ => [.illegal, .range, .size]
  | .cmp | .gsz => [.noref]

/-- The commands that write RESULT (10_state.md R28). -/
def Sys2Proof.Claims.writesResult : Instr → Bool
  | .popc8 | .popc32 | .popc64 | .ghw | .hamw _ | .hamb _ | .cmp | .gsz => true
  | .xacc | .aclr | .setH4 _ | .setH8 _ | .setH16 _ | .setH20 _ | .setH32 _ | .setH64 _ | .setHdef _
  | .setG8 _ | .setG16 _ | .setG32 _ | .setGm8 _ => false

/-- The brute-force distance of two codes for a variant: differing bits or differing bytes
(00_scope.md R13). -/
def Sys2Proof.Claims.bruteForce (k : Kind) (x y : Nat → Byte) (n : Nat) : Nat :=
  if isGeneralized k then gham x y n else ham x y n

/-- The host's moves `ACLR; for i < n: { st8 OPA, a_i; st8 OPB, b_i; XACC }` (40_popcount_reducer.md R125). -/
def Sys2Proof.Claims.accumulationLoop (pairs : List (Word × Word)) : List HostEvent :=
  cmdWrite 0x15#64 :: pairs.flatMap fun p =>
    [.access (.write 0x0030#16 (.v8 p.1)), .access (.write 0x0038#16 (.v8 p.2)), cmdWrite 0x14#64]

/-- The same state on a block with another ACCEL_PRESENT. -/
def Sys2Proof.Claims.withAccel (b : Bool) (s : State) : State :=
  { s with params := { s.params with accelPresent := b } }

/-! ### Reset and the registers -/

/-- 70_reset_and_hazards.md R280: after reset, and after a reset later on, every register has its reset value
and the parameters are unchanged. -/
def Obligations.ResetLeavesTheStatedValues : Prop :=
  (∀ p : Params, Claims.ResetValues (State.resetWith p) ∧ (State.resetWith p).params = p) ∧
    ∀ (s : State) (rest : List HostEvent), s.pending = .reset :: rest →
      ∃ t, step s = .next t ∧ Claims.ResetValues t ∧ t.params = s.params

/-- 10_state.md R24 and R27: ID, and the fields of CAP. -/
def Obligations.IdAndCapAreTheirConstants : Prop :=
  ∀ s : State, s.params.wf →
    s.readReg .id = 0x0000000148444331#64 ∧
    (s.readReg .cap).getLsbD 0 = s.params.accelPresent ∧
    (s.readReg .cap).getLsbD 1 = s.params.ghPresent ∧
    (s.readReg .cap).extractLsb' 2 14 = 0 ∧
    ((s.readReg .cap).extractLsb' 16 16).toNat = s.params.maxCodeBytes ∧
    (s.readReg .cap).extractLsb' 32 32 = 0

/-- 10_state.md R25: every field of STATUS as the host reads it. -/
def Obligations.StatusFieldsAreWhereStated : Prop :=
  ∀ s : State,
    (s.readReg .status).getLsbD 0 = s.error.isSome ∧
    (s.readReg .status).extractLsb' 1 3 = 0 ∧
    (s.error = none → (s.readReg .status).extractLsb' 4 4 = 0) ∧
    (∀ e, s.error = some e → ((s.readReg .status).extractLsb' 4 4).toNat =
      match e with
      | .illegal => 1
      | .range => 2
      | .size => 3
      | .noref => 4
      | .access => 5) ∧
    (s.readReg .status).getLsbD 8 = s.held.isSome ∧
    (s.readReg .status).extractLsb' 9 3 = 0 ∧
    (s.held = none →
      (s.readReg .status).extractLsb' 12 4 = 0 ∧ (s.readReg .status).extractLsb' 16 16 = 0) ∧
    (∀ h, s.held = some h →
      (s.readReg .status).extractLsb' 12 4 = h.kind.code ∧
        (s.readReg .status).extractLsb' 16 16 = h.len) ∧
    (s.readReg .status).extractLsb' 32 32 = 0

/-- 10_state.md R37: POPTAB holds the population count of each byte; so a word's population count is the sum
of POPTAB over its bytes (40_popcount_reducer.md R121). -/
def Obligations.PoptabIsThePopulationCount : Prop :=
  (∀ b : Byte, (poptab b).toNat = popcount b) ∧
    ∀ v : Word, popcount v = sumTo 8 fun k => (poptab (v.extractLsb' (8 * k) 8)).toNat

/-! ### Encoding -/

/-- 30_encoding.md R91, R100: the decoder reads back every command that exists on the block, with every
operand. -/
def Obligations.DecodeReadsBackEncode : Prop :=
  ∀ (gh : Bool) (i : Instr), i.wellFormed gh = true → decode gh (encode i) = .ok i

/-- Each legal CMD value is the encoding of exactly the command it decodes to. -/
def Obligations.EncodeReadsBackDecode : Prop :=
  ∀ (gh : Bool) (v : Word) (i : Instr), decode gh v = .ok i → encode i = v ∧ i.wellFormed gh = true

/-- 30_encoding.md R99: the match and mask rows are disjoint, name exactly the legal commands, and lose the G
rows and GHW without GH_PRESENT. -/
def Obligations.MatchMaskRowsNameTheLegalCommands : Prop :=
  (∀ v, ∀ r ∈ encodingRows, ∀ r' ∈ encodingRows, r.admits v = true → r'.admits v = true → r = r') ∧
    (∀ v i, decode true v = .ok i → ∃ r ∈ encodingRows, r.admits v = true ∧ r.mnemonic = i.mnemonic) ∧
    (∀ v, ∀ r ∈ encodingRows, r.admits v = true →
      ∃ i, decode true v = .ok i ∧ i.mnemonic = r.mnemonic) ∧
    ∀ v i, decode false v = .ok i ↔
      decode true v = .ok i ∧ i.mnemonic ∉ ["GHW", "SET.G8", "SET.G16", "SET.G32", "SET.GM8"]

/-- Words of 95_test_vectors.md section 3 decode to the commands they stand for. -/
def Obligations.WordsOfTheSpecDecode : Prop :=
  decode true 0x00000013#64 = .ok .ghw ∧ decode true 0x00020020#64 = .ok (.hamw 2#16) ∧
    decode true 0x00150630#64 = .ok (.setHdef 21#16) ∧ decode true 0x00280B30#64 = .ok (.setGm8 40#16) ∧
    decode true 0x00000031#64 = .ok .cmp

/-- 30_encoding.md R96: an illegal command raises ILLEGAL and has no other effect; any other command value is
executed. -/
def Obligations.IllegalCommandRaisesIllegal : Prop :=
  ∀ (s : State) (v : Word) (rest : List HostEvent), s.pending = cmdWrite v :: rest → s.error = none →
    (Claims.IllegalCmd s.params.ghPresent v →
      step s = .next { s with pending := rest, error := some .illegal }) ∧
    (¬ Claims.IllegalCmd s.params.ghPresent v →
      ∃ i, decode s.params.ghPresent v = .ok i ∧ step s = exec i { s with pending := rest })

/-! ### Steps -/

/-- 10_state.md R32: a step whose next host access is the CMD write of a legal command, with ERR = 0, is the
execution of that command, the access taken from the host's moves. -/
def Obligations.StepRunsTheDecodedCommand : Prop :=
  ∀ (s : State) (v : Word) (rest : List HostEvent) (i : Instr), s.pending = cmdWrite v :: rest →
    s.error = none → decode s.params.ghPresent v = .ok i → step s = exec i { s with pending := rest }

/-- Between accesses the block does nothing (70_reset_and_hazards.md R288; log entry 6). -/
def Obligations.StepWithoutAccessDoesNothing : Prop :=
  ∀ s : State, s.pending = [] → step s = .next s

/-- 60_exceptions.md R254: while ERR is 1 a CMD write does nothing, and reads, buffer writes and the writes of
ACC, OPA, OPB and STATUS keep working. -/
def Obligations.CommandWritesAreDiscardedWhileInError : Prop :=
  ∀ (s : State) (e : ErrorCode) (rest : List HostEvent), s.error = some e →
    (∀ v, s.pending = cmdWrite v :: rest → step s = .next { s with pending := rest }) ∧
    (∀ off n target, s.pending = .access (.read off n) :: rest →
      locate s.params off n = some target →
      step s = .next { s with pending := rest, observed := s.observed ++ [s.readTarget n target] }) ∧
    (∀ off v p, s.pending = .access (.write off v) :: rest →
      (locate s.params off v.size = some (.bufA p) ∨ locate s.params off v.size = some (.bufB p)) →
      ∃ t, step s = .next t ∧ t.error = some e ∧
        ∀ j < v.size.bytes, t.byteAt (off.toNat + j) = v.byte j) ∧
    (∀ v, s.pending = .access (.write 0x0028#16 (.v8 v)) :: rest →
      step s = .next { s with pending := rest, acc := v }) ∧
    (∀ v, s.pending = .access (.write 0x0030#16 (.v8 v)) :: rest →
      step s = .next { s with pending := rest, opa := v }) ∧
    (∀ v, s.pending = .access (.write 0x0038#16 (.v8 v)) :: rest →
      step s = .next { s with pending := rest, opb := v }) ∧
    (∀ v, s.pending = .access (.write 0x0010#16 (.v8 v)) :: rest →
      step s = .next { s with pending := rest, error := if v.getLsbD 0 then none else some e })

/-- 10_state.md R26: a write of STATUS clears the error when bit 0 is 1 and does nothing else. -/
def Obligations.StatusWriteClearsTheError : Prop :=
  ∀ (s : State) (v : Word) (rest : List HostEvent),
    s.pending = .access (.write 0x0010#16 (.v8 v)) :: rest →
      (v.getLsbD 0 = true → step s = .next { s with pending := rest, error := none }) ∧
      (v.getLsbD 0 = false → step s = .next { s with pending := rest })

/-- 10_state.md R22, R29, R30, R31: host writes of the other registers; ID, CAP and RESULT ignore them. -/
def Obligations.RegisterWritesDoWhatTheMapSays : Prop :=
  ∀ (s : State) (v : Word) (rest : List HostEvent),
    (∀ off ∈ [0x0000#16, 0x0008#16, 0x0020#16], s.pending = .access (.write off (.v8 v)) :: rest →
      step s = .next { s with pending := rest }) ∧
    (s.pending = .access (.write 0x0028#16 (.v8 v)) :: rest →
      step s = .next { s with pending := rest, acc := v }) ∧
    (s.pending = .access (.write 0x0030#16 (.v8 v)) :: rest →
      step s = .next { s with pending := rest, opa := v }) ∧
    (s.pending = .access (.write 0x0038#16 (.v8 v)) :: rest →
      step s = .next { s with pending := rest, opb := v })

/-- 20_memory.md R66: what a read that is not a bad access returns; it has no side effect. -/
def Obligations.ReadsReturnWhatTheMapSays : Prop :=
  ∀ (s : State) (rest : List HostEvent), s.params.wf →
    (∀ c ∈ [(0x0000#16, 0x0000000148444331#64), (0x0008#16, capValue s.params), (0x0010#16, s.statusWord),
        (0x0018#16, 0#64), (0x0020#16, s.result), (0x0028#16, s.acc), (0x0030#16, s.opa),
        (0x0038#16, s.opb)],
      s.pending = .access (.read c.1 .s8) :: rest →
      step s = .next { s with pending := rest, observed := s.observed ++ [.v8 c.2] }) ∧
    (∀ n p, p % n.bytes = 0 → p + n.bytes ≤ s.params.maxCodeBytes →
      (s.pending = .access (.read (BitVec.ofNat 16 (0x1000 + p)) n) :: rest →
        ∃ v : Value, v.size = n ∧ (∀ j < n.bytes, v.byte j = s.byteA (p + j)) ∧
          step s = .next { s with pending := rest, observed := s.observed ++ [v] }) ∧
      (s.pending = .access (.read (BitVec.ofNat 16 (0x2000 + p)) n) :: rest →
        ∃ v : Value, v.size = n ∧ (∀ j < n.bytes, v.byte j = s.byteB (p + j)) ∧
          step s = .next { s with pending := rest, observed := s.observed ++ [v] }))

/-- 20_memory.md R67: a buffer write stores the bytes of its value where it says and changes nothing else. -/
def Obligations.BufferWritesStoreTheirBytes : Prop :=
  ∀ (s : State) (v : Value) (p : Nat) (rest : List HostEvent), s.params.wf →
    p % v.size.bytes = 0 → p + v.size.bytes ≤ s.params.maxCodeBytes →
    ∀ base ∈ [0x1000, 0x2000], s.pending = .access (.write (BitVec.ofNat 16 (base + p)) v) :: rest →
      ∃ t, step s = .next t ∧
        (∀ a, t.byteAt a =
          if base + p ≤ a ∧ a < base + p + v.size.bytes then v.byte (a - (base + p)) else s.byteAt a) ∧
        t = { s with pending := rest, mem := t.mem }

/-- 20_memory.md R63: an 8-byte write at byte 8k, then a 1-byte read at byte 8k+j, returns bits [8j+7:8j] of
the written value. -/
def Obligations.MixedWidthAccessesAreLittleEndian : Prop :=
  ∀ (s : State) (v : Word) (k j : Nat) (rest : List HostEvent), s.params.wf → j < 8 →
    8 * k + 8 ≤ s.params.maxCodeBytes → ∀ base ∈ [0x1000, 0x2000],
    s.pending = .access (.write (BitVec.ofNat 16 (base + 8 * k)) (.v8 v)) ::
      .access (.read (BitVec.ofNat 16 (base + 8 * k + j)) .s1) :: rest →
    ∃ t u, step s = .next t ∧ step t = .next u ∧
      u.observed = s.observed ++ [.v1 (v.extractLsb' (8 * j) 8)]

/-- 20_memory.md R64, R65, R68: a bad access is dropped, a bad read returns 0, and ACCESS is raised unless an
error is already held. -/
def Obligations.BadAccessesChangeOnlyTheError : Prop :=
  ∀ (s : State) (off : BitVec 16) (rest : List HostEvent), s.params.wf →
    (∀ n, ¬ Claims.GoodAccess s.params off n → s.pending = .access (.read off n) :: rest →
      ∃ v : Value, v.size = n ∧ (∀ j, v.byte j = 0) ∧
        step s = .next { s with
          pending := rest
          observed := s.observed ++ [v]
          error := some (s.error.getD .access) }) ∧
    (∀ v, ¬ Claims.GoodAccess s.params off v.size → s.pending = .access (.write off v) :: rest →
      step s = .next { s with pending := rest, error := some (s.error.getD .access) })

/-- 20_memory.md R70: two reads of one place in a row return the same value, a byte never written
included. -/
def Obligations.ReadsAreIdempotent : Prop :=
  ∀ (s : State) (off : BitVec 16) (n : Size) (rest : List HostEvent), Claims.GoodAccess s.params off n →
    s.params.wf → s.pending = .access (.read off n) :: .access (.read off n) :: rest →
    ∃ t u v, step s = .next t ∧ step t = .next u ∧ u = { s with
      pending := rest
      observed := s.observed ++ [v, v] }

/-- 20_memory.md R61: a platform address BASE + off reaches offset off; an address outside the window is no
access to the block (92_eei_decisions.md D39). -/
def Obligations.WindowOffsetIsAddressMinusBase : Prop :=
  (∀ (p : Params) (off : BitVec 16), windowOffset p (p.base + off.toNat) = some off) ∧
    ∀ (p : Params) (a : Nat), (a < p.base ∨ p.base + 0x10000 ≤ a) → windowOffset p a = none

/-- 30_encoding.md R103: each pseudo-instruction is its expansion; HAMBITS of a number of bits that is not a
multiple of 8 does not assemble. -/
def Obligations.PseudoInstructionsAreTheirExpansions : Prop :=
  AsmLine.assemble .ham64 = some (cmdWrite 0x00010020#64) ∧
    AsmLine.assemble .ham128 = some (cmdWrite 0x00020020#64) ∧
    AsmLine.assemble .ham256 = some (cmdWrite 0x00040020#64) ∧
    (∀ nbits, nbits % 64 = 0 → nbits / 64 < 0x10000 →
      AsmLine.assemble (.hamBits nbits) = some (cmdWrite (encode (.hamw (BitVec.ofNat 16 (nbits / 64)))))) ∧
    (∀ nbits, nbits % 64 ≠ 0 → nbits % 8 = 0 → nbits / 8 < 0x10000 →
      AsmLine.assemble (.hamBits nbits) = some (cmdWrite (encode (.hamb (BitVec.ofNat 16 (nbits / 8)))))) ∧
    (∀ nbits, nbits % 8 ≠ 0 → AsmLine.assemble (.hamBits nbits) = none) ∧
    AsmLine.assemble .clrErr = some (.access (.write 0x0010#16 (.v8 1)))

/-! ### The popcount_reducer -/

/-- 40_popcount_reducer.md R122. -/
def Obligations.Popc8CountsTheLowByteOfOpa : Prop :=
  encode .popc8 = 0x10#64 ∧
    ∀ s : State, s.error = none →
      exec .popc8 s = .next { s with result := (poptab (s.opa.extractLsb' 0 8)).setWidth 64 }

/-- 40_popcount_reducer.md R123. -/
def Obligations.Popc32CountsTheLowHalfOfOpa : Prop :=
  encode .popc32 = 0x11#64 ∧
    ∀ s : State, s.error = none →
      ∃ t, exec .popc32 s = .next t ∧ t.result.toNat = popcount (s.opa.extractLsb' 0 32) ∧
        t.result.toNat ≤ 32 ∧ t = { s with result := t.result }

/-- 40_popcount_reducer.md R124. -/
def Obligations.Popc64CountsOpa : Prop :=
  encode .popc64 = 0x12#64 ∧
    (∀ s : State, s.error = none →
      ∃ t, exec .popc64 s = .next t ∧ t.result.toNat = popcount s.opa ∧ t.result.toNat ≤ 64 ∧
        t = { s with result := t.result }) ∧
    ∀ v : Word, popcount v = popcount (v.extractLsb' 32 32) + popcount (v.extractLsb' 0 32)

/-- 40_popcount_reducer.md R129. The last clause, `exec` raising ILLEGAL without GH_PRESENT, is the model's
choice (log entry 10): by R129 the command is illegal at decoding. -/
def Obligations.GhwCountsTheNonzeroBytesOfOpa : Prop :=
  encode .ghw = 0x13#64 ∧
    ∀ s : State, s.error = none →
      (s.params.ghPresent = true → ∃ t, exec .ghw s = .next t ∧ t.result.toNat = ghw s.opa ∧
        t.result.toNat ≤ 8 ∧ t = { s with result := t.result }) ∧
      (s.params.ghPresent = false → exec .ghw s = .next { s with error := some .illegal })

/-- 40_popcount_reducer.md R128: ghw of the XOR of two words counts the byte positions at which they
differ. -/
def Obligations.GhwOfXorCountsDifferingBytes : Prop :=
  ∀ x y : Word, ghw (x ^^^ y) = countTo 8 fun k => x.extractLsb' (8 * k) 8 != y.extractLsb' (8 * k) 8

/-- 40_popcount_reducer.md R125: XACC, and the host loop over word pairs. -/
def Obligations.XaccAddsTheDifferingBitsModulo : Prop :=
  encode .xacc = 0x14#64 ∧
    (∀ s : State, s.error = none →
      ∃ t, exec .xacc s = .next t ∧
        t.acc.toNat = (s.acc.toNat + popcount (s.opa ^^^ s.opb)) % 2 ^ 64 ∧
        (s.opa = s.opb → t.acc = s.acc) ∧ t = { s with acc := t.acc }) ∧
    ∀ (s : State) (pairs : List (Word × Word)), s.error = none →
      s.pending = Claims.accumulationLoop pairs →
      ∃ t : State, core.run (1 + 3 * pairs.length) s = .next t ∧ t.pending = [] ∧
        t.acc.toNat = (pairs.map fun p => popcount (p.1 ^^^ p.2)).sum % 2 ^ 64

/-- 40_popcount_reducer.md R126: ACLR, and the host write of 0 to ACC, which has the same effect. -/
def Obligations.AclrClearsTheAccumulator : Prop :=
  encode .aclr = 0x15#64 ∧
    ∀ s : State, (s.error = none → exec .aclr s = .next { s with acc := 0 }) ∧
      ∀ rest, s.pending = .access (.write 0x0028#16 (.v8 0)) :: rest →
        step s = .next { s with acc := 0, pending := rest }

/-! ### The Hamming functions -/

/-- 41_hamming_functions.md R151. -/
def Obligations.HamwIsTheWordSumOrRange : Prop :=
  (∀ n : BitVec 16, encode (.hamw n) = (n.setWidth 64 <<< 16) ||| 0x20#64) ∧
    ∀ (s : State) (n : BitVec 16), s.error = none → s.params.wf →
    (8 * n.toNat ≤ s.params.maxCodeBytes → ∃ t, exec (.hamw n) s = .next t ∧
      (t.result.toNat = sumTo n.toNat fun i => popcount (s.wordA i ^^^ s.wordB i)) ∧
      t.result.toNat ≤ 64 * n.toNat ∧ t = { s with result := t.result }) ∧
    (s.params.maxCodeBytes < 8 * n.toNat → exec (.hamw n) s = .next { s with error := some .range })

/-- 41_hamming_functions.md R153. -/
def Obligations.HambIsTheByteSumOrRange : Prop :=
  (∀ n : BitVec 16, encode (.hamb n) = (n.setWidth 64 <<< 16) ||| 0x21#64) ∧
    ∀ (s : State) (n : BitVec 16), s.error = none → s.params.wf →
    (n.toNat ≤ s.params.maxCodeBytes → ∃ t, exec (.hamb n) s = .next t ∧
      (t.result.toNat = sumTo n.toNat fun i => (poptab (s.byteA i ^^^ s.byteB i)).toNat) ∧
      t.result.toNat ≤ 8 * n.toNat ∧ t = { s with result := t.result }) ∧
    (s.params.maxCodeBytes < n.toNat → exec (.hamb n) s = .next { s with error := some .range })

/-- 41_hamming_functions.md R154: HAMW n and HAMB 8n agree, and both give ham(A, B, 8n). -/
def Obligations.HamwAgreesWithHamb : Prop :=
  ∀ (s : State) (n m : BitVec 16), s.error = none → s.params.wf → m.toNat = 8 * n.toNat →
    8 * n.toNat ≤ s.params.maxCodeBytes →
    ∃ t, exec (.hamw n) s = .next t ∧ exec (.hamb m) s = .next t ∧
      t.result.toNat = ham s.byteA s.byteB (8 * n.toNat)

/-! ### SET -/

/-- 42_hamming_comparators.md R171 to R178: SET of each Hamming variant: RANGE, then SIZE, else the reference
is held. That the state then is `State.hold` also says that REF from LEN on keeps its bytes, which is the
model's choice (log entry 11): 10_state.md R34 leaves them unspecified. -/
def Obligations.SetOfHammingVariants : Prop :=
  ∀ (s : State) (len : BitVec 16), s.error = none →
    (∀ c ∈ [(Instr.setH4 len, Kind.h4, 4), (.setH8 len, .h8, 8), (.setH16 len, .h16, 16),
        (.setH20 len, .h20, 20), (.setH32 len, .h32, 32), (.setH64 len, .h64, 64)],
      exec c.1 s = .next
        (if len.toNat > s.params.maxCodeBytes then { s with error := some .range }
         else if len.toNat ≠ c.2.2 then { s with error := some .size }
         else s.hold c.2.1 len s.byteA)) ∧
    exec (.setHdef len) s = .next
      (if len.toNat > s.params.maxCodeBytes then { s with error := some .range }
       else s.hold .hdef len s.byteA)

/-- 43_generalized_hamming.md R221 to R224, R231: SET of each generalized variant: ILLEGAL without GH_PRESENT,
RANGE, then SIZE, else the reference is held. Two parts are the model's choice: that the state then is
`State.hold`, so that REF from LEN on keeps its bytes (log entry 11; 10_state.md R34 leaves them unspecified),
and that `exec` itself raises ILLEGAL without GH_PRESENT (log entry 10; by 30_encoding.md R96 and R100 the
decoder does). -/
def Obligations.SetOfGeneralizedVariants : Prop :=
  ∀ (s : State) (len : BitVec 16), s.error = none →
    (s.params.ghPresent = true →
      (∀ c ∈ [(Instr.setG8 len, Kind.g8, 8), (.setG16 len, .g16, 16), (.setG32 len, .g32, 32)],
        exec c.1 s = .next
          (if len.toNat > s.params.maxCodeBytes then { s with error := some .range }
           else if len.toNat ≠ c.2.2 then { s with error := some .size }
           else s.hold c.2.1 len s.byteA)) ∧
      exec (.setGm8 len) s = .next
        (if len.toNat > s.params.maxCodeBytes then { s with error := some .range }
         else if len.toNat % 8 ≠ 0 then { s with error := some .size }
         else s.hold .gm8 len s.byteA)) ∧
    (s.params.ghPresent = false → ∀ i ∈ [Instr.setG8 len, .setG16 len, .setG32 len, .setGm8 len],
      exec i s = .next { s with error := some .illegal })

/-- 42_hamming_comparators.md R171; 10_state.md R34: a SET with a legal length completes for each of the
eleven variants: VALID, KIND and LEN, and REF[i] = A[i] below LEN. -/
def Obligations.SetCopiesTheCodeAndHoldsIt : Prop :=
  ∀ (s : State) (k : Kind) (len : BitVec 16), s.error = none →
    (isGeneralized k = true → s.params.ghPresent = true) → len.toNat ≤ s.params.maxCodeBytes →
    legalSize k len.toNat = true →
    ∃ t, exec (Instr.ofSet k len) s = .next t ∧ t.held = some { kind := k, len := len } ∧
      (∀ i < len.toNat, t.byteRef i = s.byteA i) ∧ t = { s with held := t.held, ref := t.ref }

/-- 42_hamming_comparators.md R172 to R178, 43_generalized_hamming.md R221 to R224: STATUS after the worked
example of each variant. -/
def Obligations.StatusAfterEachSetExample : Prop :=
  ∀ s : State, s.error = none → s.params.wf → s.params.ghPresent = true →
    ∀ c ∈ [(Instr.setH4 4#16, 0x00040100#64), (.setH8 8#16, 0x00081100#64), (.setH16 16#16, 0x00102100#64),
        (.setH20 20#16, 0x00143100#64), (.setH32 32#16, 0x00204100#64), (.setH64 64#16, 0x00405100#64),
        (.setHdef 21#16, 0x00156100#64), (.setG8 8#16, 0x00088100#64), (.setG16 16#16, 0x00109100#64),
        (.setG32 32#16, 0x0020A100#64), (.setGm8 40#16, 0x0028B100#64)],
      ∃ t, exec c.1 s = .next t ∧ t.readReg .status = c.2

/-! ### CMP and GSZ -/

/-- 42_hamming_comparators.md R180 to R185, R187; 43_generalized_hamming.md R225, R226, R228, R229: CMP for
each KIND in its defining form. -/
def Obligations.CmpComputesTheDefiningForm : Prop :=
  ∀ (s : State) (h : Held), s.error = none → s.held = some h →
    exec .cmp s = .next (s.setResult
      (match h.kind with
       | .h4 => popcount (s.halfR 0 ^^^ s.halfB 0)
       | .h8 => popcount (s.wordR 0 ^^^ s.wordB 0)
       | .h16 => popcount (s.wordR 0 ^^^ s.wordB 0) + popcount (s.wordR 1 ^^^ s.wordB 1)
       | .h20 => popcount (s.wordR 0 ^^^ s.wordB 0) + popcount (s.wordR 1 ^^^ s.wordB 1) +
           popcount (s.halfR 4 ^^^ s.halfB 4)
       | .h32 => sumTo 4 fun i => popcount (s.wordR i ^^^ s.wordB i)
       | .h64 => sumTo 8 fun i => popcount (s.wordR i ^^^ s.wordB i)
       | .hdef => (sumTo (h.len.toNat / 8) fun i => popcount (s.wordR i ^^^ s.wordB i)) +
           sumTo (h.len.toNat % 8) fun j =>
             (poptab (s.byteRef (8 * (h.len.toNat / 8) + j) ^^^
               s.byteB (8 * (h.len.toNat / 8) + j))).toNat
       | .g8 => ghw (s.wordR 0 ^^^ s.wordB 0)
       | .g16 => countTo 16 fun i => s.byteRef i != s.byteB i
       | .g32 => countTo 32 fun i => s.byteRef i != s.byteB i
       | .gm8 => sumTo (h.len.toNat / 8) fun k => ghw (s.wordR k ^^^ s.wordB k)))

/-- 42_hamming_comparators.md R179, R189; 43_generalized_hamming.md R220: for every KIND, CMP gives the
brute-force distance of REF and BUF_B over LEN bytes. -/
def Obligations.CmpIsTheBruteForceDistance : Prop :=
  ∀ (s : State) (h : Held), s.error = none → s.Inv → s.held = some h →
    ∃ t, exec .cmp s = .next t ∧
      t.result.toNat = Claims.bruteForce h.kind s.byteRef s.byteB h.len.toNat ∧
      t = { s with result := t.result }

/-- 42_hamming_comparators.md R186, R188, R189; 43_generalized_hamming.md R227, R230: the realization selected
by ACCEL_PRESENT and the compare-mask realizations give the defining form's value for every KIND, length
and contents. -/
def Obligations.RealizationsGiveTheDefiningForm : Prop :=
  ∀ (s : State) (h : Held), s.cmpRealized h = s.cmpDistance h

/-- 40_popcount_reducer.md R128: the shift-OR realization of ghw gives the defining count. -/
def Obligations.ShiftOrRealizationGivesGhw : Prop :=
  ∀ v : Word, ghwShiftOr v = ghw v

/-- 42_hamming_comparators.md R171, R179, R192: CMP right after a successful SET compares the bytes BUF_A had
with BUF_B, whatever the comparator held before. -/
def Obligations.CmpAfterSetComparesTheBuffers : Prop :=
  ∀ (s : State) (k : Kind) (len : BitVec 16), s.error = none → s.params.wf →
    (isGeneralized k = true → s.params.ghPresent = true) → len.toNat ≤ s.params.maxCodeBytes →
    legalSize k len.toNat = true →
    ∃ t u, exec (Instr.ofSet k len) s = .next t ∧ exec .cmp t = .next u ∧
      u.result.toNat = Claims.bruteForce k s.byteA s.byteB len.toNat

/-- 42_hamming_comparators.md R190, R179; 60_exceptions.md R251: GSZ gives LEN; without a reference CMP and
GSZ raise NOREF and do nothing else. -/
def Obligations.GszGivesTheCodeSizeOrNoref : Prop :=
  encode .gsz = 0x32#64 ∧
    ∀ s : State, s.error = none →
      (∀ h, s.held = some h → exec .gsz s = .next { s with result := h.len.setWidth 64 }) ∧
      (s.held = none → exec .gsz s = .next { s with error := some .noref } ∧
        exec .cmp s = .next { s with error := some .noref })

/-! ### Laws of the distances -/

/-- 00_scope.md R14: identity, symmetry, triangle inequality, range, and the two distances compared. -/
def Obligations.DistancesObeyTheirLaws : Prop :=
  ∀ (x y z : Nat → Byte) (n : Nat),
    ham x x n = 0 ∧ gham x x n = 0 ∧ ham x y n = ham y x n ∧ gham x y n = gham y x n ∧
      ham x z n ≤ ham x y n + ham y z n ∧ ham x y n ≤ 8 * n ∧ gham x y n ≤ n ∧
      gham x y n ≤ ham x y n ∧ ham x y n ≤ 8 * gham x y n

/-- 00_scope.md R14: the same permutation of byte positions in both codes changes neither distance. -/
def Obligations.DistancesIgnoreBytePermutations : Prop :=
  ∀ (x y : Nat → Byte) (n : Nat) (σ : Equiv.Perm (Fin n)),
    let move (c : Nat → Byte) (i : Nat) : Byte := if h : i < n then c (σ ⟨i, h⟩) else c i
    ham (move x) (move y) n = ham x y n ∧ gham (move x) (move y) n = gham x y n

/-! ### Errors -/

/-- 60_exceptions.md R252: a command, and an access, that raises an error changes nothing but ERR and ERRCODE;
the access is taken from the host's moves, and a read has returned a value. -/
def Obligations.AnErrorChangesNothingElse : Prop :=
  (∀ (i : Instr) (s t : State) (e : ErrorCode), s.error = none → exec i s = .next t → t.error = some e →
    t = { s with error := some e }) ∧
    ∀ (s t : State) (e : ErrorCode) (move : HostEvent) (rest : List HostEvent),
      s.pending = move :: rest → s.error = none → step s = .next t → t.error = some e →
      t = { s with error := some e, pending := rest, observed := t.observed }

/-- 60_exceptions.md R257: which errors each decoded command can raise. That `exec` of GHW and of SET of the G
kinds may raise ILLEGAL is the model's choice (log entry 10): by R96 and R100 the decoder raises it. -/
def Obligations.EachCommandRaisesOnlyItsErrors : Prop :=
  ∀ (i : Instr) (s t : State) (e : ErrorCode), s.error = none → exec i s = .next t → t.error = some e →
    e ∈ Claims.mayRaise i

/-- 60_exceptions.md R253, R255: while ERR is 1 the first error's code stays until a STATUS write with bit 0
set, or reset, clears it. -/
def Obligations.TheFirstErrorStaysUntilCleared : Prop :=
  ∀ (s t : State) (e : ErrorCode), s.error = some e → step s = .next t →
    t.error = some e ∨
      (t.error = none ∧
        ((∃ rest, s.pending = .reset :: rest) ∨
          ∃ v rest, s.pending = .access (.write 0x0010#16 (.v8 v)) :: rest ∧ v.getLsbD 0 = true))

/-- 60_exceptions.md R250: nothing stops the block; every command, and every step, answers a next state. -/
def Obligations.NothingStopsTheBlock : Prop :=
  (∀ (i : Instr) (s : State), ∃ t, exec i s = .next t) ∧ ∀ s : State, ∃ t, step s = .next t

/-! ### What is left unchanged -/

/-- 10_state.md R28, R41: POPC8, POPC32, POPC64, GHW, HAMW, HAMB, CMP and GSZ change RESULT only, or raise an
error only. -/
def Obligations.ResultCommandsFrame : Prop :=
  ∀ (i : Instr) (s t : State), Claims.writesResult i = true → s.error = none → exec i s = .next t →
    t.acc = s.acc ∧ t.opa = s.opa ∧ t.opb = s.opb ∧ s.sameBuffers t ∧ s.sameComparator t ∧
      s.sameSurroundings t ∧ (t.error = none ∨ t.result = s.result)

/-- 40_popcount_reducer.md R125, R126: XACC and ACLR change ACC only. -/
def Obligations.AccumulatorCommandsFrame : Prop :=
  ∀ (i : Instr) (s t : State), (i = .xacc ∨ i = .aclr) → s.error = none → exec i s = .next t →
    t.result = s.result ∧ t.opa = s.opa ∧ t.opb = s.opb ∧ t.error = none ∧ s.sameBuffers t ∧
      s.sameComparator t ∧ s.sameSurroundings t

/-- 42_hamming_comparators.md R171: SET of each of the eleven variants changes the comparator only, or raises
an error and keeps the comparator. -/
def Obligations.SetCommandsFrame : Prop :=
  ∀ (k : Kind) (len : BitVec 16) (s t : State), s.error = none → exec (Instr.ofSet k len) s = .next t →
    t.result = s.result ∧ t.acc = s.acc ∧ t.opa = s.opa ∧ t.opb = s.opb ∧ s.sameBuffers t ∧
      s.sameSurroundings t ∧ (t.error = none ∨ s.sameComparator t)

/-- 10_state.md R33: only a successful SET, or reset, changes the comparator. -/
def Obligations.OnlySetAndResetChangeTheComparator : Prop :=
  ∀ s t : State, step s = .next t → ¬ s.sameComparator t →
    (∃ rest, s.pending = .reset :: rest) ∨
      ∃ v rest k len, s.pending = cmdWrite v :: rest ∧ s.error = none ∧
        decode s.params.ghPresent v = .ok (Instr.ofSet k len) ∧
        t.held = some { kind := k, len := len }

/-- 10_state.md R28: RESULT changes only by the commands listed there, or reset. -/
def Obligations.OnlyTheListedCommandsChangeResult : Prop :=
  ∀ s t : State, step s = .next t → t.result ≠ s.result →
    (∃ rest, s.pending = .reset :: rest) ∨
      ∃ v rest i, s.pending = cmdWrite v :: rest ∧ s.error = none ∧
        decode s.params.ghPresent v = .ok i ∧ Claims.writesResult i = true

/-- 10_state.md R29, R30, R31: OPA and OPB change only by a host write of them or reset, ACC also by XACC and
ACLR. -/
def Obligations.OperandRegistersChangeOnlyByTheHost : Prop :=
  ∀ s t : State, step s = .next t → (¬ ∃ rest, s.pending = .reset :: rest) →
    (t.opa = s.opa ∨ ∃ rest, s.pending = .access (.write 0x0030#16 (.v8 t.opa)) :: rest) ∧
    (t.opb = s.opb ∨ ∃ rest, s.pending = .access (.write 0x0038#16 (.v8 t.opb)) :: rest) ∧
    (t.acc = s.acc ∨ (∃ rest, s.pending = .access (.write 0x0028#16 (.v8 t.acc)) :: rest) ∨
      ∃ v rest i, s.pending = cmdWrite v :: rest ∧ s.error = none ∧
        decode s.params.ghPresent v = .ok i ∧ (i = .xacc ∨ i = .aclr))

/-- 10_state.md R36, R43; 20_memory.md R76: a byte of BUF_A or BUF_B, written or not, changes only by a host
write that covers it, or reset; no command writes a buffer. -/
def Obligations.BufferBytesChangeOnlyByHostWrites : Prop :=
  ∀ (s t : State) (a : Nat), step s = .next t → t.byteAt a ≠ s.byteAt a →
    (∃ rest, s.pending = .reset :: rest) ∨
      ∃ off v rest, s.pending = .access (.write off v) :: rest ∧ off.toNat ≤ a ∧
        a < off.toNat + v.size.bytes ∧ t.byteAt a = v.byte (a - off.toNat)

/-- 10_state.md R20, R38: no step changes the parameters. -/
def Obligations.ParametersNeverChange : Prop :=
  ∀ s t : State, step s = .next t → t.params = s.params

/-! ### Independence -/

/-- 10_state.md R38; 42_hamming_comparators.md R189: blocks that differ only in ACCEL_PRESENT take the same
steps, unless the host reads CAP. -/
def Obligations.AccelerationChangesNothingButCap : Prop :=
  ∀ (b : Bool) (s t : State), (¬ ∃ rest, s.pending = .access (.read 0x0008#16 .s8) :: rest) →
    step s = .next t → step (Claims.withAccel b s) = .next (Claims.withAccel b t)

/-- 20_memory.md R76: CMP reads no byte at or beyond LEN, HAMW none at or beyond 8·nwords, HAMB none at or
beyond nbytes. -/
def Obligations.CommandsReadOnlyTheBytesNamed : Prop :=
  ∀ s u t w : State, s.error = none → u.error = none → u.params = s.params →
    (∀ h, s.held = some h → u.held = some h → legalSize h.kind h.len.toNat = true →
      (∀ i < h.len.toNat, u.byteRef i = s.byteRef i ∧ u.byteB i = s.byteB i) →
      exec .cmp s = .next t → exec .cmp u = .next w → w.result = t.result) ∧
    (∀ n, 8 * n.toNat ≤ s.params.maxCodeBytes →
      (∀ i < 8 * n.toNat, u.byteA i = s.byteA i ∧ u.byteB i = s.byteB i) →
      exec (.hamw n) s = .next t → exec (.hamw n) u = .next w → w.result = t.result) ∧
    (∀ n, n.toNat ≤ s.params.maxCodeBytes →
      (∀ i < n.toNat, u.byteA i = s.byteA i ∧ u.byteB i = s.byteB i) →
      exec (.hamb n) s = .next t → exec (.hamb n) u = .next w → w.result = t.result)

/-! ### The invariant -/

/-- The state after reset meets the invariant. -/
def Obligations.ResetMeetsTheBlockInvariant : Prop :=
  State.reset.Inv ∧ ∀ p : Params, p.wf → (State.resetWith p).Inv

/-- Every step keeps the invariant: the parameters stay legal, the buffers and REF stay in canonical form and
within their sizes (20_memory.md R69; 10_state.md R33), KIND and LEN stay legal (10_state.md R33;
42_hamming_comparators.md R191), and RESULT stays at most 8·MAX_CODE_BYTES (10_state.md R28). -/
def Obligations.StepKeepsTheBlockInvariant : Prop :=
  ∀ s t : State, s.Inv → step s = .next t → t.Inv
end

