-- ==== Sys2Proof/Laws/Counting.lean ====
section
/-! SUPPORT. Sums, population counts, and the byte-wise reading of words and half-words
(40_popcount_reducer.md R121). -/

namespace Sys2Proof

theorem sumTo_congr {n : Nat} {f g : Nat → Nat} (h : ∀ i < n, f i = g i) : sumTo n f = sumTo n g := by
  induction n with
  | zero => rfl
  | succ n ih => simp [sumTo, ih fun i hi => h i (by omega), h n (by omega)]

theorem sumTo_le {n : Nat} {f g : Nat → Nat} (h : ∀ i < n, f i ≤ g i) : sumTo n f ≤ sumTo n g := by
  induction n with
  | zero => exact Nat.le_refl _
  | succ n ih => exact Nat.add_le_add (ih fun i hi => h i (by omega)) (h n (by omega))

theorem sumTo_const (n c : Nat) : sumTo n (fun _ => c) = n * c := by
  induction n with
  | zero => simp [sumTo]
  | succ n ih => simp [sumTo, ih, Nat.succ_mul]

theorem sumTo_append (m n : Nat) (f : Nat → Nat) :
    sumTo (m + n) f = sumTo m f + sumTo n fun i => f (m + i) := by
  induction n with
  | zero => simp [sumTo]
  | succ n ih => simp [← Nat.add_assoc, sumTo, ih]

theorem sumTo_add (n : Nat) (f g : Nat → Nat) :
    sumTo n (fun i => f i + g i) = sumTo n f + sumTo n g := by
  induction n with
  | zero => rfl
  | succ n ih => simp [sumTo, ih]; omega

theorem sumTo_mul (n : Nat) (f : Nat → Nat) (c : Nat) : sumTo n (fun i => c * f i) = c * sumTo n f := by
  induction n with
  | zero => simp [sumTo]
  | succ n ih => simp [sumTo, ih, Nat.mul_add]

/-- A sum over blocks of equal size is the sum over all of them. -/
theorem sumTo_blocks (n w : Nat) (f : Nat → Nat) :
    (sumTo n fun k => sumTo w fun j => f (w * k + j)) = sumTo (w * n) f := by
  induction n with
  | zero => simp [sumTo]
  | succ n ih => simp [sumTo, ih, Nat.mul_succ, sumTo_append]

theorem countTo_congr {n : Nat} {p q : Nat → Bool} (h : ∀ i < n, p i = q i) : countTo n p = countTo n q :=
  sumTo_congr fun i hi => by rw [h i hi]

theorem countTo_le (n : Nat) (p : Nat → Bool) : countTo n p ≤ n := by
  have := sumTo_le (n := n) (f := fun i => (p i).toNat) (g := fun _ => 1) fun i _ => Bool.toNat_le (p i)
  simpa [countTo, sumTo_const] using this

namespace Machine

theorem popcount_le {n : Nat} (v : BitVec n) : popcount v ≤ n := by
  have := sumTo_le (n := n) (f := fun i => (v.getLsbD i).toNat) (g := fun _ => 1)
    fun i _ => Bool.toNat_le (v.getLsbD i)
  simpa [popcount, sumTo_const] using this

@[simp] theorem popcount_zero (n : Nat) : popcount (0#n) = 0 := by
  simp [popcount, sumTo_const]

/-- The count of a value is the sum of the counts of its `w`-bit lanes. -/
theorem popcount_lanes {m n w : Nat} (v : BitVec m) (h : m = w * n) :
    popcount v = sumTo n fun k => popcount (v.extractLsb' (w * k) w) := by
  subst h
  simp only [popcount]
  rw [← sumTo_blocks]
  exact sumTo_congr fun k _ => sumTo_congr fun j hj => by simp [hj]

/-- Byte `j` of a little-endian word (20_memory.md R63). -/
theorem extract_wordOf (x : Nat → Byte) (k j : Nat) (h : j < 8) :
    (wordOf x k).extractLsb' (8 * j) 8 = x (8 * k + j) := by
  apply BitVec.eq_of_getLsbD_eq
  intro i hi
  simp only [BitVec.getLsbD_extractLsb', hi, decide_true, Bool.true_and]
  change BitVec.getLsbD (w := 8 + 8 + 8 + 8 + 8 + 8 + 8 + 8) (_ ++ _) _ = _
  simp only [BitVec.getLsbD_append]
  interval_cases j <;> grind

/-- Byte `j` of a little-endian half-word (20_memory.md R63). -/
theorem extract_halfOf (x : Nat → Byte) (k j : Nat) (h : j < 4) :
    (halfOf x k).extractLsb' (8 * j) 8 = x (4 * k + j) := by
  apply BitVec.eq_of_getLsbD_eq
  intro i hi
  simp only [BitVec.getLsbD_extractLsb', hi, decide_true, Bool.true_and]
  change BitVec.getLsbD (w := 8 + 8 + 8 + 8) (_ ++ _) _ = _
  simp only [BitVec.getLsbD_append]
  interval_cases j <;> grind

theorem extract_xor {n : Nat} (v w : BitVec n) (start len : Nat) :
    (v ^^^ w).extractLsb' start len = v.extractLsb' start len ^^^ w.extractLsb' start len := by
  apply BitVec.eq_of_getLsbD_eq
  intro i hi
  simp [hi]

/-- The reducer step on two words counts the differing bits of their bytes (40_popcount_reducer.md R121). -/
theorem popcount_xor_wordOf (x y : Nat → Byte) (k : Nat) :
    popcount (wordOf x k ^^^ wordOf y k) = sumTo 8 fun j => popcount (x (8 * k + j) ^^^ y (8 * k + j)) := by
  rw [popcount_lanes (w := 8) (n := 8) _ rfl]
  exact sumTo_congr fun j hj => by rw [extract_xor, extract_wordOf x k j hj, extract_wordOf y k j hj]

theorem popcount_xor_halfOf (x y : Nat → Byte) (k : Nat) :
    popcount (halfOf x k ^^^ halfOf y k) = sumTo 4 fun j => popcount (x (4 * k + j) ^^^ y (4 * k + j)) := by
  rw [popcount_lanes (w := 8) (n := 4) _ rfl]
  exact sumTo_congr fun j hj => by rw [extract_xor, extract_halfOf x k j hj, extract_halfOf y k j hj]

/-- ghw of the XOR of two words counts their differing bytes (40_popcount_reducer.md R128). -/
theorem ghw_xor_wordOf (x y : Nat → Byte) (k : Nat) :
    ghw (wordOf x k ^^^ wordOf y k) = countTo 8 fun j => x (8 * k + j) != y (8 * k + j) :=
  countTo_congr fun j hj => by
    rw [extract_xor, extract_wordOf x k j hj, extract_wordOf y k j hj]
    by_cases h : x (8 * k + j) = y (8 * k + j)
    · simp [h]
    · simp [h, bne, BitVec.xor_eq_zero_iff]

/-- Lane `l` of a 512-bit block (42_hamming_comparators.md R186). -/
theorem extract_block512 (x : Nat → Byte) (i l : Nat) (h : l < 8) :
    (block512 x i).extractLsb' (64 * l) 64 = wordOf x (i + l) := by
  apply BitVec.eq_of_getLsbD_eq
  intro b hb
  simp only [BitVec.getLsbD_extractLsb', hb, decide_true, Bool.true_and]
  change BitVec.getLsbD (w := 64 + 64 + 64 + 64 + 64 + 64 + 64 + 64) (_ ++ _) _ = _
  simp only [BitVec.getLsbD_append]
  interval_cases l <;> grind

/-- Bit `i` of a value built from its bits. -/
theorem getLsbD_ofBits (n : Nat) (f : Nat → Bool) (i : Nat) :
    (ofBits n f).getLsbD i = (decide (i < n) && f i) := by
  induction n with
  | zero => simp [ofBits]
  | succ n ih => simp only [ofBits, BitVec.getLsbD_cons, ih]; grind

theorem popcount_ofBits (n : Nat) (f : Nat → Bool) : popcount (ofBits n f) = countTo n f :=
  sumTo_congr fun i hi => by simp only [getLsbD_ofBits, hi, decide_true, Bool.true_and]

end Machine

end Sys2Proof
end

