-- ==== Sys2Proof/Laws/Decode.lean ====
section
/-! SUPPORT. The fields of a packed command, and the codes of operations and variants read back. -/

namespace Sys2Proof

/-- Where each bit of a packed command comes from (30_encoding.md R91). -/
theorem getLsbD_packCmd (op : Opc) (k : BitVec 4) (l : BitVec 16) (i : Nat) :
    (packCmd op k l).getLsbD i =
      if i < 8 then op.code.getLsbD i
      else if i - 8 < 4 then k.getLsbD (i - 8)
      else if i - 12 < 4 then false
      else if i - 16 < 16 then l.getLsbD (i - 16)
      else false := by
  have e1 : i - 8 - 4 = i - 12 := by omega
  have e2 : i - 12 - 4 = i - 16 := by omega
  change BitVec.getLsbD (w := 32 + 16 + 4 + 4 + 8) (0#32 ++ l ++ 0#4 ++ k ++ op.code) i = _
  simp only [BitVec.getLsbD_append, e1, e2, BitVec.getLsbD_zero]

theorem cmdOpc_packCmd (op : Opc) (k : BitVec 4) (l : BitVec 16) :
    cmdOpc (packCmd op k l) = op.code := by
  apply BitVec.eq_of_getLsbD_eq
  intro i hi
  simp only [cmdOpc, BitVec.getLsbD_extractLsb', getLsbD_packCmd]
  grind

theorem cmdKind_packCmd (op : Opc) (k : BitVec 4) (l : BitVec 16) :
    cmdKind (packCmd op k l) = k := by
  apply BitVec.eq_of_getLsbD_eq
  intro i hi
  simp only [cmdKind, BitVec.getLsbD_extractLsb', getLsbD_packCmd]
  grind

theorem cmdRsv_packCmd (op : Opc) (k : BitVec 4) (l : BitVec 16) :
    cmdRsv (packCmd op k l) = 0#4 := by
  apply BitVec.eq_of_getLsbD_eq
  intro i hi
  simp only [cmdRsv, BitVec.getLsbD_extractLsb', getLsbD_packCmd, BitVec.getLsbD_zero]
  grind

theorem cmdLen_packCmd (op : Opc) (k : BitVec 4) (l : BitVec 16) :
    cmdLen (packCmd op k l) = l := by
  apply BitVec.eq_of_getLsbD_eq
  intro i hi
  simp only [cmdLen, BitVec.getLsbD_extractLsb', getLsbD_packCmd]
  grind

theorem cmdHigh_packCmd (op : Opc) (k : BitVec 4) (l : BitVec 16) :
    cmdHigh (packCmd op k l) = 0#32 := by
  apply BitVec.eq_of_getLsbD_eq
  intro i hi
  simp only [cmdHigh, BitVec.getLsbD_extractLsb', getLsbD_packCmd, BitVec.getLsbD_zero]
  grind

/-- A command value is the packing of its own fields once its reserved bits are 0. -/
theorem packCmd_fields {cmd : Word} {op : Opc} (hop : cmdOpc cmd = op.code)
    (hh : cmdHigh cmd = 0) (hr : cmdRsv cmd = 0) :
    packCmd op (cmdKind cmd) (cmdLen cmd) = cmd := by
  apply BitVec.eq_of_getLsbD_eq
  intro i hi
  have high := congrArg (BitVec.getLsbD · (i - 32)) hh
  have rsv := congrArg (BitVec.getLsbD · (i - 12)) hr
  simp only [cmdHigh, cmdRsv, BitVec.getLsbD_extractLsb', BitVec.ofNat_eq_ofNat,
    BitVec.getLsbD_zero] at high rsv
  simp only [getLsbD_packCmd, ← hop, cmdOpc, cmdKind, cmdLen, BitVec.getLsbD_extractLsb']
  grind

@[simp] theorem Opc.ofCode_code (op : Opc) : Opc.ofCode op.code = some op := by
  cases op <;> rfl

@[simp] theorem Kind.ofCode_code (k : Kind) : Kind.ofCode k.code = some k := by
  cases k <;> rfl

theorem Opc.code_of_ofCode {c : BitVec 8} {op : Opc} (h : Opc.ofCode c = some op) : op.code = c := by
  unfold Opc.ofCode at h
  apply BitVec.eq_of_toNat_eq
  split at h <;> cases h <;> simp_all [Opc.code]

theorem Kind.code_of_ofCode {c : BitVec 4} {k : Kind} (h : Kind.ofCode c = some k) : k.code = c := by
  unfold Kind.ofCode at h
  apply BitVec.eq_of_toNat_eq
  split at h <;> cases h <;> simp_all [Kind.code]

end Sys2Proof
end

