-- ==== Sys2Proof/Laws/State.lean ====
section
/-! SUPPORT. One lemma per field per named update of the state, and per view of the buffers and of the
reference store that an update leaves alone. -/

namespace Sys2Proof.Machine

/-! ### `setResult` -/

@[simp] theorem State.setResult_params (s : State) (v : Nat) : (s.setResult v).params = s.params := rfl
@[simp] theorem State.setResult_error (s : State) (v : Nat) : (s.setResult v).error = s.error := rfl
@[simp] theorem State.setResult_held (s : State) (v : Nat) : (s.setResult v).held = s.held := rfl
@[simp] theorem State.setResult_ref (s : State) (v : Nat) : (s.setResult v).ref = s.ref := rfl
@[simp] theorem State.setResult_result (s : State) (v : Nat) : (s.setResult v).result = BitVec.ofNat 64 v := rfl
@[simp] theorem State.setResult_acc (s : State) (v : Nat) : (s.setResult v).acc = s.acc := rfl
@[simp] theorem State.setResult_opa (s : State) (v : Nat) : (s.setResult v).opa = s.opa := rfl
@[simp] theorem State.setResult_opb (s : State) (v : Nat) : (s.setResult v).opb = s.opb := rfl
@[simp] theorem State.setResult_mem (s : State) (v : Nat) : (s.setResult v).mem = s.mem := rfl
@[simp] theorem State.setResult_resets (s : State) (v : Nat) : (s.setResult v).resets = s.resets := rfl
@[simp] theorem State.setResult_pending (s : State) (v : Nat) : (s.setResult v).pending = s.pending := rfl
@[simp] theorem State.setResult_observed (s : State) (v : Nat) : (s.setResult v).observed = s.observed := rfl
@[simp] theorem State.setResult_byteAt (s : State) (v : Nat) : (s.setResult v).byteAt = s.byteAt := rfl
@[simp] theorem State.setResult_byteA (s : State) (v : Nat) : (s.setResult v).byteA = s.byteA := rfl
@[simp] theorem State.setResult_byteB (s : State) (v : Nat) : (s.setResult v).byteB = s.byteB := rfl
@[simp] theorem State.setResult_byteRef (s : State) (v : Nat) : (s.setResult v).byteRef = s.byteRef := rfl

/-! ### `setAcc` -/

@[simp] theorem State.setAcc_params (s : State) (v : Word) : (s.setAcc v).params = s.params := rfl
@[simp] theorem State.setAcc_error (s : State) (v : Word) : (s.setAcc v).error = s.error := rfl
@[simp] theorem State.setAcc_held (s : State) (v : Word) : (s.setAcc v).held = s.held := rfl
@[simp] theorem State.setAcc_ref (s : State) (v : Word) : (s.setAcc v).ref = s.ref := rfl
@[simp] theorem State.setAcc_result (s : State) (v : Word) : (s.setAcc v).result = s.result := rfl
@[simp] theorem State.setAcc_acc (s : State) (v : Word) : (s.setAcc v).acc = v := rfl
@[simp] theorem State.setAcc_opa (s : State) (v : Word) : (s.setAcc v).opa = s.opa := rfl
@[simp] theorem State.setAcc_opb (s : State) (v : Word) : (s.setAcc v).opb = s.opb := rfl
@[simp] theorem State.setAcc_mem (s : State) (v : Word) : (s.setAcc v).mem = s.mem := rfl
@[simp] theorem State.setAcc_resets (s : State) (v : Word) : (s.setAcc v).resets = s.resets := rfl
@[simp] theorem State.setAcc_pending (s : State) (v : Word) : (s.setAcc v).pending = s.pending := rfl
@[simp] theorem State.setAcc_observed (s : State) (v : Word) : (s.setAcc v).observed = s.observed := rfl
@[simp] theorem State.setAcc_byteAt (s : State) (v : Word) : (s.setAcc v).byteAt = s.byteAt := rfl
@[simp] theorem State.setAcc_byteA (s : State) (v : Word) : (s.setAcc v).byteA = s.byteA := rfl
@[simp] theorem State.setAcc_byteB (s : State) (v : Word) : (s.setAcc v).byteB = s.byteB := rfl
@[simp] theorem State.setAcc_byteRef (s : State) (v : Word) : (s.setAcc v).byteRef = s.byteRef := rfl

/-! ### `setOpa` -/

@[simp] theorem State.setOpa_params (s : State) (v : Word) : (s.setOpa v).params = s.params := rfl
@[simp] theorem State.setOpa_error (s : State) (v : Word) : (s.setOpa v).error = s.error := rfl
@[simp] theorem State.setOpa_held (s : State) (v : Word) : (s.setOpa v).held = s.held := rfl
@[simp] theorem State.setOpa_ref (s : State) (v : Word) : (s.setOpa v).ref = s.ref := rfl
@[simp] theorem State.setOpa_result (s : State) (v : Word) : (s.setOpa v).result = s.result := rfl
@[simp] theorem State.setOpa_acc (s : State) (v : Word) : (s.setOpa v).acc = s.acc := rfl
@[simp] theorem State.setOpa_opa (s : State) (v : Word) : (s.setOpa v).opa = v := rfl
@[simp] theorem State.setOpa_opb (s : State) (v : Word) : (s.setOpa v).opb = s.opb := rfl
@[simp] theorem State.setOpa_mem (s : State) (v : Word) : (s.setOpa v).mem = s.mem := rfl
@[simp] theorem State.setOpa_resets (s : State) (v : Word) : (s.setOpa v).resets = s.resets := rfl
@[simp] theorem State.setOpa_pending (s : State) (v : Word) : (s.setOpa v).pending = s.pending := rfl
@[simp] theorem State.setOpa_observed (s : State) (v : Word) : (s.setOpa v).observed = s.observed := rfl
@[simp] theorem State.setOpa_byteAt (s : State) (v : Word) : (s.setOpa v).byteAt = s.byteAt := rfl
@[simp] theorem State.setOpa_byteA (s : State) (v : Word) : (s.setOpa v).byteA = s.byteA := rfl
@[simp] theorem State.setOpa_byteB (s : State) (v : Word) : (s.setOpa v).byteB = s.byteB := rfl
@[simp] theorem State.setOpa_byteRef (s : State) (v : Word) : (s.setOpa v).byteRef = s.byteRef := rfl

/-! ### `setOpb` -/

@[simp] theorem State.setOpb_params (s : State) (v : Word) : (s.setOpb v).params = s.params := rfl
@[simp] theorem State.setOpb_error (s : State) (v : Word) : (s.setOpb v).error = s.error := rfl
@[simp] theorem State.setOpb_held (s : State) (v : Word) : (s.setOpb v).held = s.held := rfl
@[simp] theorem State.setOpb_ref (s : State) (v : Word) : (s.setOpb v).ref = s.ref := rfl
@[simp] theorem State.setOpb_result (s : State) (v : Word) : (s.setOpb v).result = s.result := rfl
@[simp] theorem State.setOpb_acc (s : State) (v : Word) : (s.setOpb v).acc = s.acc := rfl
@[simp] theorem State.setOpb_opa (s : State) (v : Word) : (s.setOpb v).opa = s.opa := rfl
@[simp] theorem State.setOpb_opb (s : State) (v : Word) : (s.setOpb v).opb = v := rfl
@[simp] theorem State.setOpb_mem (s : State) (v : Word) : (s.setOpb v).mem = s.mem := rfl
@[simp] theorem State.setOpb_resets (s : State) (v : Word) : (s.setOpb v).resets = s.resets := rfl
@[simp] theorem State.setOpb_pending (s : State) (v : Word) : (s.setOpb v).pending = s.pending := rfl
@[simp] theorem State.setOpb_observed (s : State) (v : Word) : (s.setOpb v).observed = s.observed := rfl
@[simp] theorem State.setOpb_byteAt (s : State) (v : Word) : (s.setOpb v).byteAt = s.byteAt := rfl
@[simp] theorem State.setOpb_byteA (s : State) (v : Word) : (s.setOpb v).byteA = s.byteA := rfl
@[simp] theorem State.setOpb_byteB (s : State) (v : Word) : (s.setOpb v).byteB = s.byteB := rfl
@[simp] theorem State.setOpb_byteRef (s : State) (v : Word) : (s.setOpb v).byteRef = s.byteRef := rfl

/-! ### `storeBytes` -/

@[simp] theorem State.storeBytes_params (s : State) (off n : Nat) (f : Nat → Byte) : (s.storeBytes off n f).params = s.params := rfl
@[simp] theorem State.storeBytes_error (s : State) (off n : Nat) (f : Nat → Byte) : (s.storeBytes off n f).error = s.error := rfl
@[simp] theorem State.storeBytes_held (s : State) (off n : Nat) (f : Nat → Byte) : (s.storeBytes off n f).held = s.held := rfl
@[simp] theorem State.storeBytes_ref (s : State) (off n : Nat) (f : Nat → Byte) : (s.storeBytes off n f).ref = s.ref := rfl
@[simp] theorem State.storeBytes_result (s : State) (off n : Nat) (f : Nat → Byte) : (s.storeBytes off n f).result = s.result := rfl
@[simp] theorem State.storeBytes_acc (s : State) (off n : Nat) (f : Nat → Byte) : (s.storeBytes off n f).acc = s.acc := rfl
@[simp] theorem State.storeBytes_opa (s : State) (off n : Nat) (f : Nat → Byte) : (s.storeBytes off n f).opa = s.opa := rfl
@[simp] theorem State.storeBytes_opb (s : State) (off n : Nat) (f : Nat → Byte) : (s.storeBytes off n f).opb = s.opb := rfl
@[simp] theorem State.storeBytes_mem (s : State) (off n : Nat) (f : Nat → Byte) : (s.storeBytes off n f).mem = s.mem.storeRange off n f := rfl
@[simp] theorem State.storeBytes_resets (s : State) (off n : Nat) (f : Nat → Byte) : (s.storeBytes off n f).resets = s.resets := rfl
@[simp] theorem State.storeBytes_pending (s : State) (off n : Nat) (f : Nat → Byte) : (s.storeBytes off n f).pending = s.pending := rfl
@[simp] theorem State.storeBytes_observed (s : State) (off n : Nat) (f : Nat → Byte) : (s.storeBytes off n f).observed = s.observed := rfl
@[simp] theorem State.storeBytes_byteRef (s : State) (off n : Nat) (f : Nat → Byte) : (s.storeBytes off n f).byteRef = s.byteRef := rfl

/-! ### `hold` -/

@[simp] theorem State.hold_params (s : State) (k : Kind) (len : BitVec 16) (f : Nat → Byte) : (s.hold k len f).params = s.params := rfl
@[simp] theorem State.hold_error (s : State) (k : Kind) (len : BitVec 16) (f : Nat → Byte) : (s.hold k len f).error = s.error := rfl
@[simp] theorem State.hold_held (s : State) (k : Kind) (len : BitVec 16) (f : Nat → Byte) : (s.hold k len f).held = some ⟨k, len⟩ := rfl
@[simp] theorem State.hold_ref (s : State) (k : Kind) (len : BitVec 16) (f : Nat → Byte) : (s.hold k len f).ref = s.ref.storeRange 0 len.toNat f := rfl
@[simp] theorem State.hold_result (s : State) (k : Kind) (len : BitVec 16) (f : Nat → Byte) : (s.hold k len f).result = s.result := rfl
@[simp] theorem State.hold_acc (s : State) (k : Kind) (len : BitVec 16) (f : Nat → Byte) : (s.hold k len f).acc = s.acc := rfl
@[simp] theorem State.hold_opa (s : State) (k : Kind) (len : BitVec 16) (f : Nat → Byte) : (s.hold k len f).opa = s.opa := rfl
@[simp] theorem State.hold_opb (s : State) (k : Kind) (len : BitVec 16) (f : Nat → Byte) : (s.hold k len f).opb = s.opb := rfl
@[simp] theorem State.hold_mem (s : State) (k : Kind) (len : BitVec 16) (f : Nat → Byte) : (s.hold k len f).mem = s.mem := rfl
@[simp] theorem State.hold_resets (s : State) (k : Kind) (len : BitVec 16) (f : Nat → Byte) : (s.hold k len f).resets = s.resets := rfl
@[simp] theorem State.hold_pending (s : State) (k : Kind) (len : BitVec 16) (f : Nat → Byte) : (s.hold k len f).pending = s.pending := rfl
@[simp] theorem State.hold_observed (s : State) (k : Kind) (len : BitVec 16) (f : Nat → Byte) : (s.hold k len f).observed = s.observed := rfl
@[simp] theorem State.hold_byteAt (s : State) (k : Kind) (len : BitVec 16) (f : Nat → Byte) : (s.hold k len f).byteAt = s.byteAt := rfl
@[simp] theorem State.hold_byteA (s : State) (k : Kind) (len : BitVec 16) (f : Nat → Byte) : (s.hold k len f).byteA = s.byteA := rfl
@[simp] theorem State.hold_byteB (s : State) (k : Kind) (len : BitVec 16) (f : Nat → Byte) : (s.hold k len f).byteB = s.byteB := rfl

/-! ### `withPending` -/

@[simp] theorem State.withPending_params (s : State) (rest : List HostEvent) : (s.withPending rest).params = s.params := rfl
@[simp] theorem State.withPending_error (s : State) (rest : List HostEvent) : (s.withPending rest).error = s.error := rfl
@[simp] theorem State.withPending_held (s : State) (rest : List HostEvent) : (s.withPending rest).held = s.held := rfl
@[simp] theorem State.withPending_ref (s : State) (rest : List HostEvent) : (s.withPending rest).ref = s.ref := rfl
@[simp] theorem State.withPending_result (s : State) (rest : List HostEvent) : (s.withPending rest).result = s.result := rfl
@[simp] theorem State.withPending_acc (s : State) (rest : List HostEvent) : (s.withPending rest).acc = s.acc := rfl
@[simp] theorem State.withPending_opa (s : State) (rest : List HostEvent) : (s.withPending rest).opa = s.opa := rfl
@[simp] theorem State.withPending_opb (s : State) (rest : List HostEvent) : (s.withPending rest).opb = s.opb := rfl
@[simp] theorem State.withPending_mem (s : State) (rest : List HostEvent) : (s.withPending rest).mem = s.mem := rfl
@[simp] theorem State.withPending_resets (s : State) (rest : List HostEvent) : (s.withPending rest).resets = s.resets := rfl
@[simp] theorem State.withPending_pending (s : State) (rest : List HostEvent) : (s.withPending rest).pending = rest := rfl
@[simp] theorem State.withPending_observed (s : State) (rest : List HostEvent) : (s.withPending rest).observed = s.observed := rfl
@[simp] theorem State.withPending_byteAt (s : State) (rest : List HostEvent) : (s.withPending rest).byteAt = s.byteAt := rfl
@[simp] theorem State.withPending_byteA (s : State) (rest : List HostEvent) : (s.withPending rest).byteA = s.byteA := rfl
@[simp] theorem State.withPending_byteB (s : State) (rest : List HostEvent) : (s.withPending rest).byteB = s.byteB := rfl
@[simp] theorem State.withPending_byteRef (s : State) (rest : List HostEvent) : (s.withPending rest).byteRef = s.byteRef := rfl

/-! ### `observe` -/

@[simp] theorem State.observe_params (s : State) (v : Value) : (s.observe v).params = s.params := rfl
@[simp] theorem State.observe_error (s : State) (v : Value) : (s.observe v).error = s.error := rfl
@[simp] theorem State.observe_held (s : State) (v : Value) : (s.observe v).held = s.held := rfl
@[simp] theorem State.observe_ref (s : State) (v : Value) : (s.observe v).ref = s.ref := rfl
@[simp] theorem State.observe_result (s : State) (v : Value) : (s.observe v).result = s.result := rfl
@[simp] theorem State.observe_acc (s : State) (v : Value) : (s.observe v).acc = s.acc := rfl
@[simp] theorem State.observe_opa (s : State) (v : Value) : (s.observe v).opa = s.opa := rfl
@[simp] theorem State.observe_opb (s : State) (v : Value) : (s.observe v).opb = s.opb := rfl
@[simp] theorem State.observe_mem (s : State) (v : Value) : (s.observe v).mem = s.mem := rfl
@[simp] theorem State.observe_resets (s : State) (v : Value) : (s.observe v).resets = s.resets := rfl
@[simp] theorem State.observe_pending (s : State) (v : Value) : (s.observe v).pending = s.pending := rfl
@[simp] theorem State.observe_observed (s : State) (v : Value) : (s.observe v).observed = s.observed ++ [v] := rfl
@[simp] theorem State.observe_byteAt (s : State) (v : Value) : (s.observe v).byteAt = s.byteAt := rfl
@[simp] theorem State.observe_byteA (s : State) (v : Value) : (s.observe v).byteA = s.byteA := rfl
@[simp] theorem State.observe_byteB (s : State) (v : Value) : (s.observe v).byteB = s.byteB := rfl
@[simp] theorem State.observe_byteRef (s : State) (v : Value) : (s.observe v).byteRef = s.byteRef := rfl

/-! ### `raise` -/

@[simp] theorem State.raise_params (s : State) (c : ErrorCode) : (s.raise c).params = s.params := rfl
@[simp] theorem State.raise_held (s : State) (c : ErrorCode) : (s.raise c).held = s.held := rfl
@[simp] theorem State.raise_ref (s : State) (c : ErrorCode) : (s.raise c).ref = s.ref := rfl
@[simp] theorem State.raise_result (s : State) (c : ErrorCode) : (s.raise c).result = s.result := rfl
@[simp] theorem State.raise_acc (s : State) (c : ErrorCode) : (s.raise c).acc = s.acc := rfl
@[simp] theorem State.raise_opa (s : State) (c : ErrorCode) : (s.raise c).opa = s.opa := rfl
@[simp] theorem State.raise_opb (s : State) (c : ErrorCode) : (s.raise c).opb = s.opb := rfl
@[simp] theorem State.raise_mem (s : State) (c : ErrorCode) : (s.raise c).mem = s.mem := rfl
@[simp] theorem State.raise_resets (s : State) (c : ErrorCode) : (s.raise c).resets = s.resets := rfl
@[simp] theorem State.raise_pending (s : State) (c : ErrorCode) : (s.raise c).pending = s.pending := rfl
@[simp] theorem State.raise_observed (s : State) (c : ErrorCode) : (s.raise c).observed = s.observed := rfl
theorem State.raise_error_of_none {s : State} (h : s.error = none) (c : ErrorCode) :
    (s.raise c).error = some c := by simp [State.raise, h]
theorem State.raise_of_some {s : State} {e : ErrorCode} (h : s.error = some e) (c : ErrorCode) :
    s.raise c = s := by
  cases s; simp_all [State.raise]
theorem State.raise_isSome (s : State) (c : ErrorCode) : (s.raise c).error.isSome = true := by
  unfold State.raise; cases s.error <;> rfl
@[simp] theorem State.raise_byteAt (s : State) (c : ErrorCode) : (s.raise c).byteAt = s.byteAt := rfl
@[simp] theorem State.raise_byteA (s : State) (c : ErrorCode) : (s.raise c).byteA = s.byteA := rfl
@[simp] theorem State.raise_byteB (s : State) (c : ErrorCode) : (s.raise c).byteB = s.byteB := rfl
@[simp] theorem State.raise_byteRef (s : State) (c : ErrorCode) : (s.raise c).byteRef = s.byteRef := rfl

/-! ### `clearError` -/

@[simp] theorem State.clearError_params (s : State) : s.clearError.params = s.params := rfl
@[simp] theorem State.clearError_error (s : State) : s.clearError.error = none := rfl
@[simp] theorem State.clearError_held (s : State) : s.clearError.held = s.held := rfl
@[simp] theorem State.clearError_ref (s : State) : s.clearError.ref = s.ref := rfl
@[simp] theorem State.clearError_result (s : State) : s.clearError.result = s.result := rfl
@[simp] theorem State.clearError_acc (s : State) : s.clearError.acc = s.acc := rfl
@[simp] theorem State.clearError_opa (s : State) : s.clearError.opa = s.opa := rfl
@[simp] theorem State.clearError_opb (s : State) : s.clearError.opb = s.opb := rfl
@[simp] theorem State.clearError_mem (s : State) : s.clearError.mem = s.mem := rfl
@[simp] theorem State.clearError_resets (s : State) : s.clearError.resets = s.resets := rfl
@[simp] theorem State.clearError_pending (s : State) : s.clearError.pending = s.pending := rfl
@[simp] theorem State.clearError_observed (s : State) : s.clearError.observed = s.observed := rfl
@[simp] theorem State.clearError_byteAt (s : State) : s.clearError.byteAt = s.byteAt := rfl
@[simp] theorem State.clearError_byteA (s : State) : s.clearError.byteA = s.byteA := rfl
@[simp] theorem State.clearError_byteB (s : State) : s.clearError.byteB = s.byteB := rfl
@[simp] theorem State.clearError_byteRef (s : State) : s.clearError.byteRef = s.byteRef := rfl

/-! ### `resetBlock` -/

@[simp] theorem State.resetBlock_params (s : State) : s.resetBlock.params = s.params := rfl
@[simp] theorem State.resetBlock_error (s : State) : s.resetBlock.error = none := rfl
@[simp] theorem State.resetBlock_held (s : State) : s.resetBlock.held = none := rfl
@[simp] theorem State.resetBlock_ref (s : State) : s.resetBlock.ref = [] := rfl
@[simp] theorem State.resetBlock_result (s : State) : s.resetBlock.result = 0 := rfl
@[simp] theorem State.resetBlock_acc (s : State) : s.resetBlock.acc = 0 := rfl
@[simp] theorem State.resetBlock_opa (s : State) : s.resetBlock.opa = 0 := rfl
@[simp] theorem State.resetBlock_opb (s : State) : s.resetBlock.opb = 0 := rfl
@[simp] theorem State.resetBlock_mem (s : State) : s.resetBlock.mem = [] := rfl
@[simp] theorem State.resetBlock_resets (s : State) : s.resetBlock.resets = s.resets + 1 := rfl
@[simp] theorem State.resetBlock_pending (s : State) : s.resetBlock.pending = s.pending := rfl
@[simp] theorem State.resetBlock_observed (s : State) : s.resetBlock.observed = s.observed := rfl

end Sys2Proof.Machine
end

