-- ==== Sys2Proof/Laws/Exec.lean ====
section
/-! SUPPORT. What the shared operations, a command and a step can do, said once. -/

namespace Sys2Proof.Machine

/-- SET either raises one error or holds a legal new reference (42_hamming_comparators.md R171). -/
theorem setReference_cases (s : State) (k : Kind) (len : BitVec 16) :
    (∃ c, (c = .illegal ∨ c = .range ∨ c = .size) ∧ s.setReference k len = s.raise c) ∨
      (s.setReference k len = s.hold k len s.byteA ∧ legalSize k len.toNat = true ∧
        len.toNat ≤ s.params.maxCodeBytes ∧ (isGeneralized k = true → s.params.ghPresent = true)) := by
  unfold State.setReference
  split
  · exact .inl ⟨.illegal, by simp⟩
  · split
    · exact .inl ⟨.range, by simp⟩
    · split
      · exact .inl ⟨.size, by simp⟩
      · refine .inr ⟨rfl, by simp_all, by omega, fun hk => ?_⟩
        cases h : s.params.ghPresent <;> simp_all

/-- What any command can do: raise one error, write RESULT, write ACC, or hold a new reference. -/
theorem exec_cases (i : Instr) (s : State) :
    ∃ t, exec i s = .next t ∧
      ((∃ c, t = s.raise c) ∨ (∃ v, t = s.setResult v) ∨ (∃ v, t = s.setAcc v) ∨
        ∃ k len, t = s.hold k len s.byteA ∧ legalSize k len.toNat = true ∧
          len.toNat ≤ s.params.maxCodeBytes ∧ (isGeneralized k = true → s.params.ghPresent = true)) := by
  have set : ∀ k len, ∃ t, Host.Outcome.next (φ := Fault) (ρ := Refusal) (s.setReference k len) = .next t ∧
      ((∃ c, t = s.raise c) ∨ (∃ v, t = s.setResult v) ∨ (∃ v, t = s.setAcc v) ∨
        ∃ k len, t = s.hold k len s.byteA ∧ legalSize k len.toNat = true ∧
          len.toNat ≤ s.params.maxCodeBytes ∧ (isGeneralized k = true → s.params.ghPresent = true)) := by
    intro k len
    refine ⟨_, rfl, ?_⟩
    rcases setReference_cases s k len with ⟨c, _, h⟩ | ⟨h, h'⟩
    · exact .inl ⟨c, h⟩
    · exact .inr (.inr (.inr ⟨k, len, h, h'⟩))
  cases i with
  | popc8 => exact ⟨_, rfl, .inr (.inl ⟨_, rfl⟩)⟩
  | popc32 => exact ⟨_, rfl, .inr (.inl ⟨_, rfl⟩)⟩
  | popc64 => exact ⟨_, rfl, .inr (.inl ⟨_, rfl⟩)⟩
  | ghw =>
    refine ⟨_, rfl, ?_⟩
    split
    · exact .inr (.inl ⟨_, rfl⟩)
    · exact .inl ⟨_, rfl⟩
  | xacc => exact ⟨_, rfl, .inr (.inr (.inl ⟨_, rfl⟩))⟩
  | aclr => exact ⟨_, rfl, .inr (.inr (.inl ⟨_, rfl⟩))⟩
  | hamw n =>
    refine ⟨_, rfl, ?_⟩
    split
    · exact .inl ⟨_, rfl⟩
    · exact .inr (.inl ⟨_, rfl⟩)
  | hamb n =>
    refine ⟨_, rfl, ?_⟩
    split
    · exact .inl ⟨_, rfl⟩
    · exact .inr (.inl ⟨_, rfl⟩)
  | setH4 n => exact set _ _
  | setH8 n => exact set _ _
  | setH16 n => exact set _ _
  | setH20 n => exact set _ _
  | setH32 n => exact set _ _
  | setH64 n => exact set _ _
  | setHdef n => exact set _ _
  | setG8 n => exact set _ _
  | setG16 n => exact set _ _
  | setG32 n => exact set _ _
  | setGm8 n => exact set _ _
  | cmp =>
    refine ⟨_, rfl, ?_⟩
    split
    · exact .inl ⟨_, rfl⟩
    · exact .inr (.inl ⟨_, rfl⟩)
  | gsz =>
    refine ⟨_, rfl, ?_⟩
    split
    · exact .inl ⟨_, rfl⟩
    · exact .inr (.inl ⟨_, rfl⟩)

/-- A write to CMD: discarded, an illegal command, or the execution of the decoded command. -/
theorem writeCmd_cases (v : Word) (s : State) :
    (s.error.isSome = true ∧ writeCmd v s = .next s) ∨
      (s.error = none ∧ (∃ e, decode s.params.ghPresent v = .error e) ∧
        writeCmd v s = .next (s.raise .illegal)) ∨
      (s.error = none ∧ ∃ i, decode s.params.ghPresent v = .ok i ∧ writeCmd v s = exec i s) := by
  unfold writeCmd
  cases he : s.error with
  | some e => exact .inl ⟨by simp, rfl⟩
  | none =>
    cases hd : decode s.params.ghPresent v with
    | error e => exact .inr (.inl ⟨by simp, ⟨e, by simp⟩, by simp⟩)
    | ok i => exact .inr (.inr ⟨by simp, i, by simp, by simp⟩)

/-- What a host write can do. -/
theorem hostWrite_cases (off : BitVec 16) (v : Value) (s : State) :
    (locate s.params off v.size = none ∧ hostWrite off v s = .next s.badAccess) ∨
      (locate s.params off v.size = some (.register .cmd) ∧ hostWrite off v s = writeCmd v.word s) ∨
      (∃ r, r ≠ .cmd ∧ locate s.params off v.size = some (.register r) ∧
        hostWrite off v s = .next (s.writeReg r v.word)) ∨
      (∃ p, locate s.params off v.size = some (.bufA p) ∧
        hostWrite off v s = .next (s.storeBytes (bufABase + p) v.size.bytes v.byte)) ∨
      (∃ p, locate s.params off v.size = some (.bufB p) ∧
        hostWrite off v s = .next (s.storeBytes (bufBBase + p) v.size.bytes v.byte)) := by
  unfold hostWrite
  split
  · exact .inl ⟨by assumption, rfl⟩
  · exact .inr (.inl ⟨by assumption, rfl⟩)
  · rename_i r hr h
    exact .inr (.inr (.inl ⟨r, hr, h, rfl⟩))
  · exact .inr (.inr (.inr (.inl ⟨_, by assumption, rfl⟩)))
  · exact .inr (.inr (.inr (.inr ⟨_, by assumption, rfl⟩)))

theorem step_nil {s : State} (h : s.pending = []) : step s = .next s := by
  simp [step, stepOnce, h]

theorem step_cons {s : State} {e : HostEvent} {rest : List HostEvent} (h : s.pending = e :: rest) :
    step s = serve e (s.withPending rest) := by
  simp [step, stepOnce, h]

/-- CMD is the register an aligned 8-byte access at 0x0018 reaches (10_state.md R22). -/
@[simp] theorem locate_cmd (p : Params) : locate p cmdOffset .s8 = some (.register .cmd) := rfl

/-- What an access that reaches a register is (20_memory.md R64). -/
theorem locate_register {p : Params} {off : BitVec 16} {n : Size} {r : Reg}
    (h : locate p off n = some (.register r)) : n = .s8 ∧ Reg.ofOffset off.toNat = some r := by
  unfold locate at h
  simp only at h
  split at h
  · split at h
    · obtain ⟨r', hr, e⟩ := Option.map_eq_some_iff.mp h
      cases e
      exact ⟨by assumption, hr⟩
    · cases h
  · split at h
    · cases h
    · split at h
      · cases h
      · split at h <;> cases h

/-- What an access that reaches BUF_A is (20_memory.md R65). -/
theorem locate_bufA {p : Params} {off : BitVec 16} {n : Size} {i : Nat}
    (h : locate p off n = some (.bufA i)) :
    bufABase + i = off.toNat ∧ off.toNat % n.bytes = 0 ∧ i + n.bytes ≤ p.maxCodeBytes := by
  unfold locate at h
  simp only at h
  split at h
  · split at h <;> simp at h
  · split at h
    · simp at h
    · split at h
      · simp only [Option.some.injEq, Target.bufA.injEq] at h
        omega
      · split at h <;> simp at h

/-- What an access that reaches BUF_B is (20_memory.md R65). -/
theorem locate_bufB {p : Params} {off : BitVec 16} {n : Size} {i : Nat}
    (h : locate p off n = some (.bufB i)) :
    bufBBase + i = off.toNat ∧ off.toNat % n.bytes = 0 ∧ i + n.bytes ≤ p.maxCodeBytes := by
  unfold locate at h
  simp only at h
  split at h
  · split at h <;> simp at h
  · split at h
    · simp at h
    · split at h
      · simp at h
      · split at h
        · simp only [Option.some.injEq, Target.bufB.injEq] at h
          omega
        · simp at h

/-- The offset of a register is the one the map gives (10_state.md R22). -/
theorem Reg.ofOffset_inj {a b : BitVec 16} {r : Reg} (ha : Reg.ofOffset a.toNat = some r)
    (hb : Reg.ofOffset b.toNat = some r) : a = b := by
  apply BitVec.eq_of_toNat_eq
  unfold Reg.ofOffset at ha hb
  split at ha <;> cases ha <;> split at hb <;> cases hb <;> omega

/-- What a step can do, the host's next move being `e` and `u` the state without it. -/
theorem step_cases {s t : State} (h : step s = .next t) :
    (s.pending = [] ∧ t = s) ∨
      ∃ e rest, s.pending = e :: rest ∧
        ((e = .reset ∧ t = (s.withPending rest).resetBlock) ∨
        (∃ off n v, e = .access (.read off n) ∧
          (t = (s.withPending rest).observe v ∨ t = (s.withPending rest).badAccess.observe v)) ∨
        (∃ off v, e = .access (.write off v) ∧ t = (s.withPending rest).badAccess) ∨
        (∃ v, e = cmdWrite v ∧
          ((s.error.isSome = true ∧ t = s.withPending rest) ∨
            (s.error = none ∧ t = (s.withPending rest).raise .illegal) ∨
            (s.error = none ∧ ∃ i, decode s.params.ghPresent v = .ok i ∧
              exec i (s.withPending rest) = .next t))) ∨
        (∃ r off v, r ≠ .cmd ∧ Reg.ofOffset off.toNat = some r ∧ e = .access (.write off (.v8 v)) ∧
          t = (s.withPending rest).writeReg r v) ∨
        ∃ off v, e = .access (.write off v) ∧
          t = (s.withPending rest).storeBytes off.toNat v.size.bytes v.byte) := by
  cases hp : s.pending with
  | nil =>
    rw [step_nil hp] at h
    cases h
    exact .inl ⟨rfl, rfl⟩
  | cons e rest =>
    rw [step_cons hp] at h
    refine .inr ⟨e, rest, rfl, ?_⟩
    match e with
    | .reset =>
      cases h
      exact .inl ⟨rfl, rfl⟩
    | .access (.read off n) =>
      cases h
      refine .inr (.inl ⟨off, n, ?_⟩)
      unfold State.hostRead
      split
      · exact ⟨_, rfl, .inl rfl⟩
      · exact ⟨_, rfl, .inr rfl⟩
    | .access (.write off v) =>
      simp only [serve] at h
      rcases hostWrite_cases off v (s.withPending rest) with
        ⟨_, e⟩ | ⟨hl, e⟩ | ⟨r, hr, hl, e⟩ | ⟨p, hl, e⟩ | ⟨p, hl, e⟩ <;> rw [e] at h
      · cases h
        exact .inr (.inr (.inl ⟨off, v, rfl, rfl⟩))
      · obtain ⟨hv, ho⟩ := locate_register hl
        cases v <;> cases hv
        rename_i v
        obtain rfl := Reg.ofOffset_inj (b := cmdOffset) ho rfl
        refine .inr (.inr (.inr (.inl ⟨v, rfl, ?_⟩)))
        simp only [Value.word] at h
        rcases writeCmd_cases v (s.withPending rest) with ⟨h1, e⟩ | ⟨h1, _, e⟩ | ⟨h1, i, h2, e⟩ <;>
          rw [e] at h
        · cases h
          exact .inl ⟨h1, rfl⟩
        · cases h
          exact .inr (.inl ⟨h1, rfl⟩)
        · exact .inr (.inr ⟨h1, i, h2, h⟩)
      · obtain ⟨hv, ho⟩ := locate_register hl
        cases v <;> cases hv
        rename_i v
        cases h
        exact .inr (.inr (.inr (.inr (.inl ⟨r, off, v, hr, ho, rfl, rfl⟩))))
      · cases h
        rw [(locate_bufA hl).1]
        exact .inr (.inr (.inr (.inr (.inr ⟨off, v, rfl, rfl⟩))))
      · cases h
        rw [(locate_bufB hl).1]
        exact .inr (.inr (.inr (.inr (.inr ⟨off, v, rfl, rfl⟩))))

end Sys2Proof.Machine
end

