-- ==== Sys2Proof/Laws/Flags.lean ====
section
/-! SUPPORT. Where each bit of STATUS and of CAP comes from. -/

namespace Sys2Proof.Machine

/-- Where each bit of STATUS comes from (10_state.md R25). -/
theorem State.getLsbD_statusWord (s : State) (i : Nat) :
    s.statusWord.getLsbD i =
      if i < 1 then s.errBit
      else if i < 4 then false
      else if i < 8 then s.errCode.getLsbD (i - 4)
      else if i < 9 then s.validBit
      else if i < 12 then false
      else if i < 16 then s.kindField.getLsbD (i - 12)
      else if i < 32 then s.lenField.getLsbD (i - 16)
      else false := by
  change BitVec.getLsbD (w := 32 + 16 + 4 + 3 + 1 + 4 + 3 + 1)
    (0#32 ++ s.lenField ++ s.kindField ++ 0#3 ++ BitVec.ofBool s.validBit ++ s.errCode ++ 0#3 ++
      BitVec.ofBool s.errBit) i = _
  have e : i - 1 - 3 = i - 4 := by omega
  simp only [BitVec.getLsbD_append, BitVec.getLsbD_ofBool, BitVec.getLsbD_zero, e]
  grind

/-- Where each bit of CAP comes from (10_state.md R27). -/
theorem getLsbD_capValue (p : Params) (i : Nat) :
    (capValue p).getLsbD i =
      if i < 1 then p.accelPresent
      else if i < 2 then p.ghPresent
      else if i < 16 then false
      else if i < 32 then (BitVec.ofNat 16 p.maxCodeBytes).getLsbD (i - 16)
      else false := by
  change BitVec.getLsbD (w := 32 + 16 + 14 + 1 + 1)
    (0#32 ++ BitVec.ofNat 16 p.maxCodeBytes ++ 0#14 ++ BitVec.ofBool p.ghPresent ++
      BitVec.ofBool p.accelPresent) i = _
  have e : i - 1 - 1 - 14 = i - 16 := by omega
  simp only [BitVec.getLsbD_append, BitVec.getLsbD_ofBool, BitVec.getLsbD_zero, e]
  grind

end Sys2Proof.Machine
end

