-- ==== Sys2Proof/Laws/Memory.lean ====
section
/-! SUPPORT. Memory: a read after a write, what a write leaves alone, and the canonical form. -/

namespace Sys2Proof.Machine

theorem Memory.find_store (m : Memory) (a : Nat) (b : Byte) (k : Nat) :
    (m.store a b).find k = if k = a then some b else m.find k := by
  induction m with
  | nil => simp only [Memory.store, Memory.find]; grind
  | cons c m ih =>
    obtain ⟨x, y⟩ := c
    simp only [Memory.store]
    split
    · simp only [Memory.find]; grind
    · split
      · simp only [Memory.find]; grind
      · simp only [Memory.find, ih]; grind

@[simp] theorem Memory.find_store_same (m : Memory) (a : Nat) (b : Byte) :
    (m.store a b).find a = some b := by
  simp [Memory.find_store]

theorem Memory.find_store_other (m : Memory) {a k : Nat} (b : Byte) (h : k ≠ a) :
    (m.store a b).find k = m.find k := by
  simp [Memory.find_store, h]

theorem Memory.find_storeRange (m : Memory) (base n : Nat) (f : Nat → Byte) (k : Nat) :
    (m.storeRange base n f).find k =
      if base ≤ k ∧ k < base + n then some (f (k - base)) else m.find k := by
  induction n with
  | zero =>
    simp [Memory.storeRange]
  | succ n ih =>
    simp only [Memory.storeRange, Memory.find_store, ih]
    by_cases h : k = base + n
    · subst h; simp
    · simp only [h, if_false]
      by_cases h2 : base ≤ k ∧ k < base + n
      · simp [h2.1, h2.2]; omega
      · have : ¬ (base ≤ k ∧ k < base + (n + 1)) := by omega
        simp [h2, this]

/-- Where a stored byte stands, or an old one. -/
theorem Memory.mem_store {m : Memory} {a : Nat} {b : Byte} {c : Host.Cell}
    (h : c ∈ m.store a b) : c = (a, b) ∨ c ∈ m := by
  induction m with
  | nil => simpa [Memory.store] using h
  | cons d m ih =>
    obtain ⟨x, y⟩ := d
    simp only [Memory.store] at h
    split at h
    · simpa using h
    · split at h
      · rcases List.mem_cons.mp h with h | h
        · exact .inl h
        · exact .inr (List.mem_cons_of_mem _ h)
      · rcases List.mem_cons.mp h with h | h
        · exact .inr (h ▸ List.mem_cons_self)
        · exact (ih h).imp id fun h => List.mem_cons_of_mem _ h

theorem Memory.wf_store {m : Memory} (h : m.wf) (a : Nat) (b : Byte) : (m.store a b).wf := by
  induction m with
  | nil => simp [Memory.store]
  | cons c m ih =>
    obtain ⟨x, y⟩ := c
    obtain ⟨hx, hm⟩ := List.pairwise_cons.mp h
    simp only [Memory.store]
    split
    · rename_i hlt
      refine List.pairwise_cons.mpr ⟨fun d hd => ?_, h⟩
      rcases List.mem_cons.mp hd with rfl | hd
      · exact hlt
      · exact Nat.lt_trans hlt (hx d hd)
    · split
      · rename_i heq
        subst heq
        exact List.pairwise_cons.mpr ⟨hx, hm⟩
      · refine List.pairwise_cons.mpr ⟨fun d hd => ?_, ih hm⟩
        rcases Memory.mem_store hd with rfl | hd
        · simp only; omega
        · exact hx d hd

theorem Memory.mem_storeRange {m : Memory} {base n : Nat} {f : Nat → Byte} {c : Host.Cell}
    (h : c ∈ m.storeRange base n f) : (base ≤ c.1 ∧ c.1 < base + n) ∨ c ∈ m := by
  induction n with
  | zero => exact .inr h
  | succ n ih =>
    rcases Memory.mem_store h with rfl | h
    · exact .inl ⟨by simp, by simp⟩
    · exact (ih h).imp (fun h => ⟨h.1, by omega⟩) id

theorem Memory.wf_storeRange {m : Memory} (h : m.wf) (base n : Nat) (f : Nat → Byte) :
    (m.storeRange base n f).wf := by
  induction n with
  | zero => exact h
  | succ n ih => exact Memory.wf_store ih _ _

/-- Reset memory is in canonical form. -/
theorem State.reset_mem_wf : State.reset.mem.wf := List.Pairwise.nil

/-- A byte of the buffers after a write of some bytes. -/
theorem State.byteAt_storeBytes (s : State) (off n : Nat) (f : Nat → Byte) (a : Nat) :
    (s.storeBytes off n f).byteAt a =
      if off ≤ a ∧ a < off + n then f (a - off) else s.byteAt a := by
  simp only [State.byteAt, State.storeBytes_mem, State.storeBytes_resets, Memory.find_storeRange]
  split <;> simp

/-- A byte of the reference store after SET has copied a code. -/
theorem State.byteRef_hold (s : State) (k : Kind) (len : BitVec 16) (f : Nat → Byte) (i : Nat) :
    (s.hold k len f).byteRef i = if i < len.toNat then f i else s.byteRef i := by
  simp only [State.byteRef, State.hold_ref, State.hold_resets, Memory.find_storeRange]
  by_cases h : i < len.toNat <;> simp [h]

end Sys2Proof.Machine
end

