-- ==== Sys2Proof/Laws/PerInstr.lean ====
section
/-! SUPPORT. A statement about every command as syntax, one lemma per constructor: the encoding leaves the
reserved fields 0 and carries an OPC the decoder knows (30_encoding.md R90, R91, R94). -/

namespace Sys2Proof.Laws

/-- The encoding of `i` has `cmd[63:32] = 0` and RSV = 0, and its OPC is assigned. -/
def ReservedZero.Statement (i : Instr) : Prop :=
  cmdHigh (encode i) = 0 ∧ cmdRsv (encode i) = 0 ∧ (Opc.ofCode (cmdOpc (encode i))).isSome = true

theorem ReservedZero.popc8 : ReservedZero.Statement .popc8 := by
  simp [ReservedZero.Statement, encode, cmdHigh_packCmd, cmdRsv_packCmd, cmdOpc_packCmd]
theorem ReservedZero.popc32 : ReservedZero.Statement .popc32 := by
  simp [ReservedZero.Statement, encode, cmdHigh_packCmd, cmdRsv_packCmd, cmdOpc_packCmd]
theorem ReservedZero.popc64 : ReservedZero.Statement .popc64 := by
  simp [ReservedZero.Statement, encode, cmdHigh_packCmd, cmdRsv_packCmd, cmdOpc_packCmd]
theorem ReservedZero.ghw : ReservedZero.Statement .ghw := by
  simp [ReservedZero.Statement, encode, cmdHigh_packCmd, cmdRsv_packCmd, cmdOpc_packCmd]
theorem ReservedZero.xacc : ReservedZero.Statement .xacc := by
  simp [ReservedZero.Statement, encode, cmdHigh_packCmd, cmdRsv_packCmd, cmdOpc_packCmd]
theorem ReservedZero.aclr : ReservedZero.Statement .aclr := by
  simp [ReservedZero.Statement, encode, cmdHigh_packCmd, cmdRsv_packCmd, cmdOpc_packCmd]
theorem ReservedZero.hamw (n : BitVec 16) : ReservedZero.Statement (.hamw n) := by
  simp [ReservedZero.Statement, encode, cmdHigh_packCmd, cmdRsv_packCmd, cmdOpc_packCmd]
theorem ReservedZero.hamb (n : BitVec 16) : ReservedZero.Statement (.hamb n) := by
  simp [ReservedZero.Statement, encode, cmdHigh_packCmd, cmdRsv_packCmd, cmdOpc_packCmd]
theorem ReservedZero.setH4 (n : BitVec 16) : ReservedZero.Statement (.setH4 n) := by
  simp [ReservedZero.Statement, encode, cmdHigh_packCmd, cmdRsv_packCmd, cmdOpc_packCmd]
theorem ReservedZero.setH8 (n : BitVec 16) : ReservedZero.Statement (.setH8 n) := by
  simp [ReservedZero.Statement, encode, cmdHigh_packCmd, cmdRsv_packCmd, cmdOpc_packCmd]
theorem ReservedZero.setH16 (n : BitVec 16) : ReservedZero.Statement (.setH16 n) := by
  simp [ReservedZero.Statement, encode, cmdHigh_packCmd, cmdRsv_packCmd, cmdOpc_packCmd]
theorem ReservedZero.setH20 (n : BitVec 16) : ReservedZero.Statement (.setH20 n) := by
  simp [ReservedZero.Statement, encode, cmdHigh_packCmd, cmdRsv_packCmd, cmdOpc_packCmd]
theorem ReservedZero.setH32 (n : BitVec 16) : ReservedZero.Statement (.setH32 n) := by
  simp [ReservedZero.Statement, encode, cmdHigh_packCmd, cmdRsv_packCmd, cmdOpc_packCmd]
theorem ReservedZero.setH64 (n : BitVec 16) : ReservedZero.Statement (.setH64 n) := by
  simp [ReservedZero.Statement, encode, cmdHigh_packCmd, cmdRsv_packCmd, cmdOpc_packCmd]
theorem ReservedZero.setHdef (n : BitVec 16) : ReservedZero.Statement (.setHdef n) := by
  simp [ReservedZero.Statement, encode, cmdHigh_packCmd, cmdRsv_packCmd, cmdOpc_packCmd]
theorem ReservedZero.setG8 (n : BitVec 16) : ReservedZero.Statement (.setG8 n) := by
  simp [ReservedZero.Statement, encode, cmdHigh_packCmd, cmdRsv_packCmd, cmdOpc_packCmd]
theorem ReservedZero.setG16 (n : BitVec 16) : ReservedZero.Statement (.setG16 n) := by
  simp [ReservedZero.Statement, encode, cmdHigh_packCmd, cmdRsv_packCmd, cmdOpc_packCmd]
theorem ReservedZero.setG32 (n : BitVec 16) : ReservedZero.Statement (.setG32 n) := by
  simp [ReservedZero.Statement, encode, cmdHigh_packCmd, cmdRsv_packCmd, cmdOpc_packCmd]
theorem ReservedZero.setGm8 (n : BitVec 16) : ReservedZero.Statement (.setGm8 n) := by
  simp [ReservedZero.Statement, encode, cmdHigh_packCmd, cmdRsv_packCmd, cmdOpc_packCmd]
theorem ReservedZero.cmp : ReservedZero.Statement .cmp := by
  simp [ReservedZero.Statement, encode, cmdHigh_packCmd, cmdRsv_packCmd, cmdOpc_packCmd]
theorem ReservedZero.gsz : ReservedZero.Statement .gsz := by
  simp [ReservedZero.Statement, encode, cmdHigh_packCmd, cmdRsv_packCmd, cmdOpc_packCmd]

end Sys2Proof.Laws
end

