-- ==== Sys2Proof/Tests/Slice0.lean ====
section
/-! SUPPORT. Small tests whose expected results come from the spec (95_test_vectors.md, cited by row, or the
rule named), and for every statement with hypotheses a witness that meets them together. -/

namespace Sys2Proof.Tests

set_option Elab.async false

open Sys2Proof.Machine

/-! ### Small states -/

/-- The block of 95_test_vectors.md right after reset: the default parameters, ACCEL_PRESENT false. -/
def block : State :=
  State.resetWith { maxCodeBytes := 256, accelPresent := false, ghPresent := true, base := 0x4000 }

/-- The same with ACCEL_PRESENT true. -/
def accelBlock : State := Claims.withAccel true block

/-- A block without the generalized-Hamming option, MAX_CODE_BYTES 128. -/
def plainBlock : State :=
  State.resetWith { maxCodeBytes := 128, accelPresent := false, ghPresent := false, base := 0 }

/-- A block with the largest buffers. -/
def largeBlock : State :=
  State.resetWith { maxCodeBytes := 4096, accelPresent := false, ghPresent := true, base := 0 }

/-- The host's moves. -/
def asks (es : List HostEvent) (s : State) : State := s.withPending es

/-- The buffers hold two codes of `n` bytes. -/
def codes (n : Nat) (a b : Nat → Byte) : State :=
  (block.storeBytes bufABase n a).storeBytes bufBBase n b

/-- BUF_A was the code `a` at a SET of variant `k`, BUF_B is the code `b`. -/
def comparing (k : Kind) (n : Nat) (a b : Nat → Byte) : State :=
  let s := codes n a b
  s.hold k (BitVec.ofNat 16 n) s.byteA

/-- The operand registers hold two words, the accumulator a third. -/
def operands (a b acc : Word) : State := ((block.setOpa a).setOpb b).setAcc acc

/-- The state after a step or a command. -/
def after (o : Host.Outcome State Fault Refusal) : Option State :=
  match o with
  | .next s => some s
  | .fault _ => none
  | .refused _ => none

theorem of_after {o : Host.Outcome State Fault Refusal} {t : State} (h : after o = some t) : o = .next t := by
  cases o <;> simp_all [after]

/-- RESULT after a command. -/
def resultOf (o : Host.Outcome State Fault Refusal) : Option Nat := (after o).map fun s => s.result.toNat

/-- ACC after a command. -/
def accOf (o : Host.Outcome State Fault Refusal) : Option Word := (after o).map fun s => s.acc

/-- STATUS after a command or a step. -/
def statusOf (o : Host.Outcome State Fault Refusal) : Option Word := (after o).map State.statusWord

/-- What the last read of a step returned. -/
def readOf (o : Host.Outcome State Fault Refusal) : Option Value := (after o).bind fun s => s.observed.getLast?

/-- Every byte is `b`. -/
def all (b : Byte) : Nat → Byte := fun _ => b

/-- The bytes of scenario S3: 01 at 2, 0F at 7, FF at 11. -/
def scenarioThree : Nat → Byte := fun i =>
  if i = 2 then 0x01 else if i = 7 then 0x0F else if i = 11 then 0xFF else 0

/-- A state in error: SIZE. -/
def failed : State := block.raise .size

/-! ### Well-formedness: an ill-formed command for each check -/

theorem test_wellFormed_refuses_ghw : Instr.ghw.wellFormed false = false := by decide
theorem test_wellFormed_refuses_setG8 : (Instr.setG8 8).wellFormed false = false := by decide
theorem test_wellFormed_refuses_setG16 : (Instr.setG16 16).wellFormed false = false := by decide
theorem test_wellFormed_refuses_setG32 : (Instr.setG32 32).wellFormed false = false := by decide
theorem test_wellFormed_refuses_setGm8 : (Instr.setGm8 40).wellFormed false = false := by decide
theorem test_wellFormed_admits_hamw : (Instr.hamw 0xFFFF).wellFormed false = true := by decide

/-! ### Decoding: the words of 95_test_vectors.md section 3 and 30_encoding.md R94, R95, R99 -/

theorem test_decode_popc8 : decode true 0x00000010#64 = .ok .popc8 := by decide
theorem test_decode_popc32 : decode true 0x00000011#64 = .ok .popc32 := by decide
theorem test_decode_popc64 : decode true 0x00000012#64 = .ok .popc64 := by decide
theorem test_decode_ghw : decode true 0x00000013#64 = .ok .ghw := by decide
theorem test_decode_xacc : decode true 0x00000014#64 = .ok .xacc := by decide
theorem test_decode_aclr : decode true 0x00000015#64 = .ok .aclr := by decide
theorem test_decode_hamw : decode true 0x00020020#64 = .ok (.hamw 2) := by decide
theorem test_decode_hamb : decode true 0x00090021#64 = .ok (.hamb 9) := by decide
theorem test_decode_setH4 : decode true 0x00040030#64 = .ok (.setH4 4) := by decide
theorem test_decode_setH8 : decode true 0x00080130#64 = .ok (.setH8 8) := by decide
theorem test_decode_setH16 : decode true 0x00100230#64 = .ok (.setH16 16) := by decide
theorem test_decode_setH20 : decode true 0x00140330#64 = .ok (.setH20 20) := by decide
theorem test_decode_setH32 : decode true 0x00200430#64 = .ok (.setH32 32) := by decide
theorem test_decode_setH64 : decode true 0x00400530#64 = .ok (.setH64 64) := by decide
theorem test_decode_setHdef : decode true 0x00150630#64 = .ok (.setHdef 21) := by decide
theorem test_decode_setG8 : decode true 0x00080830#64 = .ok (.setG8 8) := by decide
theorem test_decode_setG16 : decode true 0x00100930#64 = .ok (.setG16 16) := by decide
theorem test_decode_setG32 : decode true 0x00200A30#64 = .ok (.setG32 32) := by decide
theorem test_decode_setGm8 : decode true 0x00280B30#64 = .ok (.setGm8 40) := by decide
theorem test_decode_cmp : decode true 0x00000031#64 = .ok .cmp := by decide
theorem test_decode_gsz : decode true 0x00000032#64 = .ok .gsz := by decide

/-- The same field by field, one command per family: reserved half, LEN, RSV, KIND, OPC (30_encoding.md R91). -/
theorem test_decode_fields_popc64 :
    decode true (0#32 ++ 0#16 ++ 0b0000#4 ++ 0b0000#4 ++ 0b00010010#8) = .ok .popc64 := by decide
theorem test_decode_fields_hamw :
    decode true (0#32 ++ 0xFFFF#16 ++ 0b0000#4 ++ 0b0000#4 ++ 0b00100000#8) = .ok (.hamw 0xFFFF) := by decide
theorem test_decode_fields_setHdef :
    decode true (0#32 ++ 0x8001#16 ++ 0b0000#4 ++ 0b0110#4 ++ 0b00110000#8) = .ok (.setHdef 0x8001) := by decide
theorem test_decode_fields_setGm8 :
    decode true (0#32 ++ 0x0028#16 ++ 0b0000#4 ++ 0b1011#4 ++ 0b00110000#8) = .ok (.setGm8 40) := by decide
theorem test_decodeTableWord : decodeTableWord 64 0x00150630 = some (.setHdef 21) := by decide

/-! ### Illegal command values, 95_test_vectors.md V29 to V39 -/

theorem test_illegal_V29 : decode true 0x00000000#64 = .error .unassignedOpcode := by decide
theorem test_illegal_V30 : decode true 0x00010012#64 = .error .lenNotZero := by decide
theorem test_illegal_V31 : decode true 0x00000112#64 = .error .kindNotZero := by decide
theorem test_illegal_V32 : decode true 0x00001012#64 = .error .reservedBits := by decide
theorem test_illegal_V33 : decode true 0x0000000100000012#64 = .error .reservedBits := by decide
theorem test_illegal_V34 : decode true 0x000000FF#64 = .error .unassignedOpcode := by decide
theorem test_illegal_V35 : decode true 0x00080730#64 = .error .reservedKind := by decide
theorem test_illegal_V36 : decode true 0x00080C30#64 = .error .reservedKind := by decide
theorem test_illegal_V37 : decode false 0x00000013#64 = .error .generalizedAbsent := by decide
theorem test_illegal_V38 : decode false 0x00080830#64 = .error .generalizedAbsent := by decide
theorem test_illegal_V39 : decode true 0x00010031#64 = .error .lenNotZero := by decide
theorem test_illegal_status :
    statusOf (step (asks [cmdWrite 0x00080730#64] block)) = some 0x11#64 := by decide +kernel

/-! ### The popcount_reducer, 95_test_vectors.md section 4 -/

theorem test_popc8_V3 : resultOf (exec .popc8 (operands 0x01A5#64 0#64 0#64)) = some 4 := by decide +kernel
theorem test_popc8_V4 :
    resultOf (exec .popc8 (operands 0xFFFFFFFFFFFFFF00#64 0#64 0#64)) = some 0 := by decide +kernel
theorem test_popc32_V8 :
    resultOf (exec .popc32 (operands 0xFFFFFFFF80000001#64 0#64 0#64)) = some 2 := by decide +kernel
theorem test_popc32_V9 :
    resultOf (exec .popc32 (operands 0x0000000100000000#64 0#64 0#64)) = some 0 := by decide +kernel
theorem test_popc64_V12 :
    resultOf (exec .popc64 (operands 0xFFFFFFFFFFFFFFFF#64 0#64 0#64)) = some 64 := by decide +kernel
theorem test_popc64_V14 :
    resultOf (exec .popc64 (operands 0x0123456789ABCDEF#64 0#64 0#64)) = some 32 := by decide +kernel
theorem test_ghw_V19 :
    resultOf (exec .ghw (operands 0x8000000000000000#64 0#64 0#64)) = some 1 := by decide +kernel
theorem test_ghw_V20 :
    resultOf (exec .ghw (operands 0x00FF000001000080#64 0#64 0#64)) = some 3 := by decide +kernel
theorem test_xacc_V23 : accOf (exec .xacc (operands 0xFF#64 0x0F#64 5#64)) = some 9#64 := by decide +kernel
theorem test_xacc_V27 :
    accOf (exec .xacc (operands 0#64 0xFF#64 0xFFFFFFFFFFFFFFFE#64)) = some 6#64 := by decide +kernel
theorem test_aclr_V28 : accOf (exec .aclr (operands 0#64 0#64 0x1234#64)) = some 0#64 := by decide +kernel

/-! ### The Hamming functions, 95_test_vectors.md section 5 -/

theorem test_hamw_V50 :
    resultOf (exec (.hamw 2) (codes 16 (BitVec.ofNat 8 ·) fun i => BitVec.ofNat 8 (15 - i))) = some 64 := by decide +kernel
theorem test_hamw_V44 : statusOf (exec (.hamw 33) block) = some 0x21#64 := by decide +kernel
theorem test_hamb_V51 :
    resultOf (exec (.hamb 13) (codes 13 (BitVec.ofNat 8 ·) fun i => BitVec.ofNat 8 (15 - i))) = some 52 := by decide +kernel
theorem test_hamb_V48 : statusOf (exec (.hamb 257) block) = some 0x21#64 := by decide +kernel

/-! ### SET: STATUS after it, 95_test_vectors.md sections 3 and 6 -/

theorem test_setH4_status :
    statusOf (exec (.setH4 4) (codes 4 (all 0) (all 0))) = some 0x00040100#64 := by decide +kernel
theorem test_setH4_300 : statusOf (exec (.setH4 300) block) = some 0x21#64 := by decide +kernel
theorem test_setH8_status :
    statusOf (exec (.setH8 8) (codes 8 (all 0) (all 0))) = some 0x00081100#64 := by decide +kernel
theorem test_setH8_16 : statusOf (exec (.setH8 16) block) = some 0x31#64 := by decide +kernel
theorem test_setH16_status :
    statusOf (exec (.setH16 16) (codes 16 (all 0) (all 0))) = some 0x00102100#64 := by decide +kernel
theorem test_setH16_8 : statusOf (exec (.setH16 8) block) = some 0x31#64 := by decide +kernel
theorem test_setH20_status :
    statusOf (exec (.setH20 20) (codes 20 (all 0) (all 0))) = some 0x00143100#64 := by decide +kernel
theorem test_setH20_16 : statusOf (exec (.setH20 16) block) = some 0x31#64 := by decide +kernel
theorem test_setH32_status :
    statusOf (exec (.setH32 32) (codes 32 (all 0) (all 0))) = some 0x00204100#64 := by decide +kernel
theorem test_setH32_4 : statusOf (exec (.setH32 4) block) = some 0x31#64 := by decide +kernel
theorem test_setH64_status :
    statusOf (exec (.setH64 64) (codes 64 (all 0) (all 0))) = some 0x00405100#64 := by decide +kernel
theorem test_setH64_257 : statusOf (exec (.setH64 257) block) = some 0x21#64 := by decide +kernel
theorem test_setHdef_status :
    statusOf (exec (.setHdef 21) (codes 21 (all 0) (all 0))) = some 0x00156100#64 := by decide +kernel
theorem test_setHdef_257 : statusOf (exec (.setHdef 257) block) = some 0x21#64 := by decide +kernel
theorem test_setG8_status :
    statusOf (exec (.setG8 8) (codes 8 (all 0) (all 0))) = some 0x00088100#64 := by decide +kernel
theorem test_setG8_errors :
    statusOf (exec (.setG8 16) block) = some 0x31#64 ∧ statusOf (exec (.setG8 8) plainBlock) = some 0x11#64 := by
  decide +kernel
theorem test_setG16_status :
    statusOf (exec (.setG16 16) (codes 16 (all 0) (all 0))) = some 0x00109100#64 := by decide +kernel
theorem test_setG16_0 : statusOf (exec (.setG16 0) block) = some 0x31#64 := by decide +kernel
theorem test_setG32_status :
    statusOf (exec (.setG32 32) (codes 32 (all 0) (all 0))) = some 0x0020A100#64 := by decide +kernel
theorem test_setG32_31 : statusOf (exec (.setG32 31) block) = some 0x31#64 := by decide +kernel
theorem test_setGm8_status :
    statusOf (exec (.setGm8 40) (codes 40 (all 0) (all 0))) = some 0x0028B100#64 := by decide +kernel
theorem test_setGm8_12 : statusOf (exec (.setGm8 12) block) = some 0x31#64 := by decide +kernel

/-! ### CMP for every KIND and GSZ, 95_test_vectors.md section 6 and scenarios S1 to S4 -/

/-- S2, S1, V70, V71, V74, V76, S4. -/
theorem test_cmp_hamming :
    resultOf (exec .cmp (comparing .h4 4 (fun i => if i = 0 then 1 else 0) (all 0))) = some 1 ∧
      resultOf (exec .cmp (comparing .h8 8 (all 0) (all 0xFF))) = some 64 ∧
      resultOf (exec .cmp (comparing .h16 16 (all 0) scenarioThree)) = some 13 ∧
      resultOf (exec .cmp (comparing .h20 20 (all 0) (fun i => if i = 19 then 0x80 else 0))) = some 1 ∧
      resultOf (exec .cmp (comparing .h32 32 (all 0) (all 1))) = some 32 ∧
      resultOf (exec .cmp (comparing .h64 64 (BitVec.ofNat 8 ·) (fun i => BitVec.ofNat 8 (63 - i)))) = some 384 ∧
      resultOf (exec .cmp (comparing .hdef 21 (fun i => BitVec.ofNat 8 (37 * i)) (fun i => BitVec.ofNat 8 (91 * i + 5)))) = some 95 := by decide +kernel
/-- V101, V104, V106, V109, and CMP without a reference. -/
theorem test_cmp_generalized :
    resultOf (exec .cmp (comparing .g8 8 (all 0) (fun i => if i = 7 then 0x80 else 0))) = some 1 ∧
      resultOf (exec .cmp (comparing .g16 16 (all 0) scenarioThree)) = some 3 ∧
      resultOf (exec .cmp (comparing .g32 32 (all 0) (all 0x80))) = some 32 ∧
      resultOf (exec .cmp (comparing .gm8 40 (all 0) (fun i => if i % 8 = 0 then 1 else 0))) = some 5 ∧
      statusOf (exec .cmp block) = some 0x41#64 := by decide +kernel
theorem test_gsz_V81 : resultOf (exec .gsz (comparing .hdef 21 (all 0) (all 3))) = some 21 := by decide +kernel
theorem test_gsz_V140 : statusOf (exec .gsz block) = some 0x41#64 := by decide +kernel
theorem test_realized_V84 :
    (comparing .hdef 65 (all 0) (all 1)).cmpRealized ⟨.hdef, 65⟩ = 65 := by decide +kernel
theorem test_realized_accel_V84 :
    (Claims.withAccel true (comparing .hdef 65 (all 0) (all 1))).cmpRealized ⟨.hdef, 65⟩ = 65 := by decide +kernel
theorem test_realized_gm8_V109 :
    (comparing .gm8 40 (all 0) fun i => if i % 8 = 0 then 1 else 0).cmpRealized ⟨.gm8, 40⟩ = 5 := by decide +kernel
theorem test_ghwShiftOr_V20 : ghwShiftOr 0x00FF000001000080#64 = 3 := by decide +kernel

/-! ### The host interface, 95_test_vectors.md section 7 -/

theorem test_read_id_V120 :
    readOf (step (asks [.access (.read 0x0000#16 .s8)] block)) = some (.v8 0x0000000148444331#64) := by decide +kernel
theorem test_read_cap_V121 :
    readOf (step (asks [.access (.read 0x0008#16 .s8)] block)) = some (.v8 0x0000000001000002#64) := by decide +kernel
theorem test_read_cap_accel_V134 :
    readOf (step (asks [.access (.read 0x0008#16 .s8)] accelBlock)) = some (.v8 0x0000000001000003#64) := by decide +kernel
theorem test_read_cap_plain_V134 :
    readOf (step (asks [.access (.read 0x0008#16 .s8)] plainBlock)) = some (.v8 0x0000000000800000#64) := by decide +kernel
theorem test_read_cmd_V122 :
    readOf (step (asks [.access (.read 0x0018#16 .s8)] block)) = some (.v8 0#64) := by decide +kernel
theorem test_write_result_V123 :
    after (step (asks [.access (.write 0x0020#16 (.v8 5))] block)) = some block := by decide +kernel
theorem test_narrow_status_write_V124 :
    statusOf (step (asks [.access (.write 0x0010#16 (.v4 1))] block)) = some 0x51#64 := by decide +kernel
theorem test_read_reserved_V125 :
    readOf (step (asks [.access (.read 0x0040#16 .s8)] block)) = some (.v8 0#64) := by decide +kernel
theorem test_misaligned_write_V126 :
    statusOf (step (asks [.access (.write 0x1004#16 (.v8 0))] block)) = some 0x51#64 := by decide +kernel
theorem test_read_past_buffer_V127 :
    statusOf (step (asks [.access (.read 0x1100#16 .s1)] block)) = some 0x51#64 := by decide +kernel
theorem test_little_endian_V128 :
    readOf (step (asks [.access (.read 0x20FD#16 .s1)] (block.storeBytes 0x20FC 4 (Value.v4 0x11223344#32).byte))) =
      some (.v1 0x33#8) := by decide +kernel
theorem test_little_endian_V129 :
    readOf (step (asks [.access (.read 0x1006#16 .s2)] (block.storeBytes 0x1000 8 (Value.v8 0x0807060504030201#64).byte))) =
      some (.v2 0x0807#16) := by decide +kernel
theorem test_buffer_write_V137 :
    (after (step (asks [.access (.write 0x1002#16 (.v2 0xBBAA))] block))).map State.mem =
      some [(0x1002, 0xAA#8), (0x1003, 0xBB#8)] := by decide +kernel
theorem test_last_word_V138 :
    statusOf (step (asks [.access (.write 0x20F8#16 (.v8 0))] block)) = some 0#64 := by decide +kernel
theorem test_past_last_word_V138 :
    statusOf (step (asks [.access (.write 0x2100#16 (.v8 0))] block)) = some 0x51#64 := by decide +kernel
theorem test_discarded_command_V130 :
    after (step (asks [cmdWrite 0x32#64] failed)) = some failed := by decide +kernel
theorem test_clear_error_V131 :
    statusOf (step (asks [.access (.write 0x0010#16 (.v8 1))] failed)) = some 0#64 := by decide +kernel
theorem test_no_clear_V132 :
    statusOf (step (asks [.access (.write 0x0010#16 (.v8 0xFFFE))] failed)) = some 0x31#64 := by decide +kernel
theorem test_first_error_wins_V133 :
    statusOf (step (asks [.access (.write 0x0010#16 (.v4 1))] failed)) = some 0x31#64 := by decide +kernel
theorem test_reset_step :
    statusOf (step (asks [.reset] (comparing .h4 4 (all 0) (all 0)))) = some 0#64 := by decide +kernel

/-- The host's question: the word is run by the very next step after reset. -/
theorem test_withFetchWord_runs (s : State) (h : s.params.ghPresent = true) :
    step (s.withFetchWord 64 0x13) = exec .ghw s.clearError := by
  simp only [step, stepOnce, State.withFetchWord, State.withPending, State.clearError]
  simp [serve, hostWrite, cmdWrite, writeCmd, locate, cmdOffset, h]
  rfl

/-! ### The assembler, 95_test_vectors.md section 8 and 30_encoding.md R101 to R103 -/

theorem test_assemble_set :
    assembleProgram ["SET.HDEF 21                        # st8 0x0018, 0x0015_0630"] = some [cmdWrite 0x00150630#64] := by decide +kernel
theorem test_assemble_store :
    assembleProgram ["st8 BUFA+8, 0xFFEE_DDCC_BBAA_9988  # write 8 byte(s)"] = some [.access (.write 0x1008#16 (.v8 0xFFEEDDCCBBAA9988#64))] := by decide +kernel
theorem test_assemble_load :
    assembleProgram ["ld8 RESULT                         # -> 0x0000_0000_0000_000D"] = some [.access (.read 0x0020#16 .s8)] := by decide +kernel
theorem test_assemble_hamBits :
    assembleProgram ["HAMBITS 72"] = some [cmdWrite 0x00090021#64] := by decide +kernel
theorem test_assemble_clrErr :
    assembleProgram ["CLRERR        # st8 STATUS, 1"] = some [.access (.write 0x0010#16 (.v8 1))] := by decide +kernel
theorem test_assemble_refuses : assembleProgram ["HAMBITS 7"] = none := by decide +kernel

/-- A blank line and a comment-only line assemble to no host access (log entry 15). -/
theorem test_assemble_blank : assembleProgram ["", "  # CMP", "CMP"] = some [cmdWrite 0x31#64] := by
  decide +kernel

/-- A token with no digit is no number (log entry 15); separators among digits have no meaning. -/
theorem test_assemble_number :
    ["_", "0x", "0x_", "0x_1F", "1_0"].map (fun t => number t.toList) = [none, none, none, some 31, some 10] := by
  decide +kernel

/-! ### Witnesses: for each statement with hypotheses, states and operands that meet them, at the ends of
the ranges of its clauses -/

theorem witness_ResetLeavesTheStatedValues : (asks [.reset] failed).pending = .reset :: [] := rfl

theorem witness_IdAndCapAreTheirConstants :
    block.params.wf ∧ plainBlock.params.wf ∧ largeBlock.params.wf := by decide

theorem witness_StatusFieldsAreWhereStated :
    block.error = none ∧ (block.raise .illegal).error = some .illegal ∧
      (block.raise .range).error = some .range ∧ failed.error = some .size ∧
      (block.raise .noref).error = some .noref ∧ (block.raise .access).error = some .access ∧
      block.held = none ∧ (comparing .gm8 40 (all 0) (all 0)).held = some ⟨.gm8, 40⟩ := by
  decide +kernel

theorem witness_DecodeReadsBackEncode :
    Instr.popc8.wellFormed false = true ∧ (Instr.hamb 0).wellFormed false = true ∧
      (Instr.setGm8 0xFFFF).wellFormed true = true := by decide

theorem witness_EncodeReadsBackDecode :
    decode false 0x00000031#64 = .ok .cmp ∧ decode true 0xFFFF0B30#64 = .ok (.setGm8 0xFFFF) := by decide

theorem witness_MatchMaskRowsNameTheLegalCommands :
    (∃ r ∈ encodingRows, r.admits 0xFFFF0020#64 = true) ∧ decode true 0x00080830#64 = .ok (.setG8 8) ∧
      decode false 0x00080130#64 = .ok (.setH8 8) := by decide +kernel

/-- Both clauses: each reason of 30_encoding.md R96 at the first value it names, and legal values beside them. -/
theorem witness_IllegalCommandRaisesIllegal :
    (asks [cmdWrite 0x33#64] block).pending = cmdWrite 0x33#64 :: [] ∧ block.error = none ∧
      Claims.IllegalCmd true 0x33#64 ∧ Claims.IllegalCmd true 0x100000032#64 ∧
      Claims.IllegalCmd true 0x1032#64 ∧ Claims.IllegalCmd true 0x132#64 ∧
      Claims.IllegalCmd true 0x10032#64 ∧ Claims.IllegalCmd true 0x730#64 ∧
      Claims.IllegalCmd true 0xC30#64 ∧ Claims.IllegalCmd false 0x13#64 ∧
      Claims.IllegalCmd false 0x830#64 ∧ ¬ Claims.IllegalCmd true 0x32#64 ∧
      ¬ Claims.IllegalCmd true 0x630#64 ∧ ¬ Claims.IllegalCmd true 0xB30#64 ∧
      ¬ Claims.IllegalCmd true 0x13#64 ∧ ¬ Claims.IllegalCmd false 0xFFFF0020#64 := by
  refine ⟨rfl, rfl, ?_, ?_, ?_, ?_, ?_, ?_, ?_, ?_, ?_, ?_, ?_, ?_, ?_, ?_⟩ <;> decide +kernel

theorem witness_StepRunsTheDecodedCommand :
    let s := asks [cmdWrite 0x10#64] block
    s.pending = cmdWrite 0x10#64 :: [] ∧ s.error = none ∧
      decode s.params.ghPresent 0x10#64 = .ok .popc8 := by decide +kernel

theorem witness_StepWithoutAccessDoesNothing : block.pending = [] := rfl

theorem witness_CommandWritesAreDiscardedWhileInError :
    failed.error = some .size ∧
      (asks [cmdWrite 0x10#64] failed).pending = cmdWrite 0x10#64 :: [] ∧
      (asks [.access (.read 0x20FF#16 .s1)] failed).pending = .access (.read 0x20FF#16 .s1) :: [] ∧
      locate failed.params 0x20FF#16 .s1 = some (.bufB 255) ∧
      (asks [.access (.write 0x10F8#16 (.v8 7))] failed).pending =
        .access (.write 0x10F8#16 (.v8 7)) :: [] ∧
      locate failed.params 0x10F8#16 .s8 = some (.bufA 248) ∧
      (asks [.access (.write 0x0028#16 (.v8 7))] failed).pending =
        .access (.write 0x0028#16 (.v8 7)) :: [] ∧
      (asks [.access (.write 0x0030#16 (.v8 7))] failed).pending =
        .access (.write 0x0030#16 (.v8 7)) :: [] ∧
      (asks [.access (.write 0x0038#16 (.v8 7))] failed).pending =
        .access (.write 0x0038#16 (.v8 7)) :: [] ∧
      (asks [.access (.write 0x0010#16 (.v8 1))] failed).pending =
        .access (.write 0x0010#16 (.v8 1)) :: [] := by decide +kernel

theorem witness_StatusWriteClearsTheError :
    (asks [.access (.write 0x0010#16 (.v8 1))] failed).pending =
        .access (.write 0x0010#16 (.v8 1)) :: [] ∧ (1#64).getLsbD 0 = true ∧
      (asks [.access (.write 0x0010#16 (.v8 0xFFFE))] failed).pending =
        .access (.write 0x0010#16 (.v8 0xFFFE)) :: [] ∧ (0xFFFE#64).getLsbD 0 = false := by decide +kernel

theorem witness_RegisterWritesDoWhatTheMapSays :
    (asks [.access (.write 0x0000#16 (.v8 5))] block).pending = .access (.write 0x0000#16 (.v8 5)) :: [] ∧
      (asks [.access (.write 0x0020#16 (.v8 5))] block).pending =
        .access (.write 0x0020#16 (.v8 5)) :: [] ∧
      (asks [.access (.write 0x0028#16 (.v8 5))] block).pending =
        .access (.write 0x0028#16 (.v8 5)) :: [] ∧
      (asks [.access (.write 0x0030#16 (.v8 5))] block).pending =
        .access (.write 0x0030#16 (.v8 5)) :: [] ∧
      (asks [.access (.write 0x0038#16 (.v8 5))] block).pending =
        .access (.write 0x0038#16 (.v8 5)) :: [] := by decide +kernel

theorem witness_ReadsReturnWhatTheMapSays :
    block.params.wf ∧
      (asks [.access (.read 0x0038#16 .s8)] block).pending = .access (.read 0x0038#16 .s8) :: [] ∧
      248 % Size.s8.bytes = 0 ∧ 248 + Size.s8.bytes ≤ block.params.maxCodeBytes ∧
      (asks [.access (.read (BitVec.ofNat 16 (0x1000 + 248)) .s8)] block).pending =
        .access (.read (BitVec.ofNat 16 (0x1000 + 248)) .s8) :: [] ∧
      255 % Size.s1.bytes = 0 ∧ 255 + Size.s1.bytes ≤ block.params.maxCodeBytes ∧
      (asks [.access (.read (BitVec.ofNat 16 (0x2000 + 255)) .s1)] block).pending =
        .access (.read (BitVec.ofNat 16 (0x2000 + 255)) .s1) :: [] := by decide +kernel

theorem witness_BufferWritesStoreTheirBytes :
    let s := asks [.access (.write (BitVec.ofNat 16 (0x2000 + 4088)) (.v8 9))] largeBlock
    s.params.wf ∧ 4088 % (Value.v8 9).size.bytes = 0 ∧
      4088 + (Value.v8 9).size.bytes ≤ s.params.maxCodeBytes ∧
      s.pending = .access (.write (BitVec.ofNat 16 (0x2000 + 4088)) (.v8 9)) :: [] := by decide +kernel

theorem witness_MixedWidthAccessesAreLittleEndian :
    let s := asks [.access (.write (BitVec.ofNat 16 (0x1000 + 8 * 31)) (.v8 9)),
      .access (.read (BitVec.ofNat 16 (0x1000 + 8 * 31 + 7)) .s1)] block
    s.params.wf ∧ 8 * 31 + 8 ≤ s.params.maxCodeBytes ∧
      s.pending = .access (.write (BitVec.ofNat 16 (0x1000 + 8 * 31)) (.v8 9)) ::
        .access (.read (BitVec.ofNat 16 (0x1000 + 8 * 31 + 7)) .s1) :: [] := by decide +kernel

/-- Bad accesses where the clauses meet, and the good ones beside them. -/
theorem witness_BadAccessesChangeOnlyTheError :
    block.params.wf ∧
      (∀ c ∈ [(0x0040#16, Size.s8), (0x0038#16, .s4), (0x003C#16, .s8), (0x0FFF#16, .s1), (0x1004#16, .s8),
          (0x1100#16, .s1), (0x2100#16, .s8), (0xFFFF#16, .s1)],
        ¬ Claims.GoodAccess block.params c.1 c.2) ∧
      (∀ c ∈ [(0x0038#16, Size.s8), (0x1000#16, .s8), (0x10FF#16, .s1), (0x20FC#16, .s4)],
        Claims.GoodAccess block.params c.1 c.2) ∧
      (asks [.access (.read 0x0040#16 .s8)] block).pending = .access (.read 0x0040#16 .s8) :: [] ∧
      (asks [.access (.write 0x1004#16 (.v8 0))] block).pending =
        .access (.write 0x1004#16 (.v8 0)) :: [] := by
  decide +kernel

theorem witness_ReadsAreIdempotent :
    Claims.GoodAccess block.params 0x2000#16 .s8 ∧ block.params.wf ∧
      (asks [.access (.read 0x2000#16 .s8), .access (.read 0x2000#16 .s8)] block).pending =
        .access (.read 0x2000#16 .s8) :: .access (.read 0x2000#16 .s8) :: [] := by
  decide +kernel

theorem witness_WindowOffsetIsAddressMinusBase :
    0x3FFF < block.params.base ∧ block.params.base + 0x10000 ≤ 0x14000 := by decide

theorem witness_PseudoInstructionsAreTheirExpansions :
    (4194240 % 64 = 0 ∧ 4194240 / 64 < 0x10000) ∧
      (524280 % 64 ≠ 0 ∧ 524280 % 8 = 0 ∧ 524280 / 8 < 0x10000) ∧ 7 % 8 ≠ 0 := by decide

/-- For the statements that ask only for STATUS.ERR = 0: POPC8, POPC32 and POPC64. -/
theorem witness_Popc8CountsTheLowByteOfOpa : (operands 0x1A5 0 0).error = none := rfl
theorem witness_Popc32CountsTheLowHalfOfOpa : (operands 0xFFFFFFFF80000001 0 0).error = none := rfl
theorem witness_Popc64CountsOpa : (operands 0xFFFFFFFFFFFFFFFF 0 0).error = none := rfl

theorem witness_XaccAddsTheDifferingBitsModulo :
    (operands 1 0 0xFFFFFFFFFFFFFFFF).error = none ∧ (operands 7 7 5).opa = (operands 7 7 5).opb ∧
      (asks (Claims.accumulationLoop [(1, 2), (7, 7)]) block).pending =
        Claims.accumulationLoop [(1, 2), (7, 7)] ∧
      (asks (Claims.accumulationLoop []) block).pending = Claims.accumulationLoop [] :=
  ⟨rfl, rfl, rfl, rfl⟩

theorem witness_AclrClearsTheAccumulator :
    (operands 0 0 0x1234).error = none ∧
      (asks [.access (.write 0x0028#16 (.v8 0))] failed).pending =
        .access (.write 0x0028#16 (.v8 0)) :: [] := ⟨rfl, rfl⟩

theorem witness_GhwCountsTheNonzeroBytesOfOpa :
    block.error = none ∧ block.params.ghPresent = true ∧ plainBlock.error = none ∧
      plainBlock.params.ghPresent = false := by decide

theorem witness_HamwIsTheWordSumOrRange :
    block.error = none ∧ block.params.wf ∧ 8 * (32#16).toNat ≤ block.params.maxCodeBytes ∧
      block.params.maxCodeBytes < 8 * (33#16).toNat := by decide

theorem witness_HambIsTheByteSumOrRange :
    block.error = none ∧ block.params.wf ∧ (256#16).toNat ≤ block.params.maxCodeBytes ∧
      block.params.maxCodeBytes < (257#16).toNat := by decide

theorem witness_HamwAgreesWithHamb :
    block.error = none ∧ block.params.wf ∧ (256#16).toNat = 8 * (32#16).toNat ∧
      8 * (32#16).toNat ≤ block.params.maxCodeBytes := by decide

theorem witness_SetOfHammingVariants : (codes 21 (all 0) (all 3)).error = none := rfl

theorem witness_SetOfGeneralizedVariants :
    block.error = none ∧ block.params.ghPresent = true ∧ plainBlock.error = none ∧
      plainBlock.params.ghPresent = false := by decide

/-- A legal length for each variant, the ends of the range for the two with many. -/
theorem witness_SetCopiesTheCodeAndHoldsIt :
    block.error = none ∧ block.params.ghPresent = true ∧
      ∀ c ∈ [(Kind.h4, 4#16), (.h8, 8#16), (.h16, 16#16), (.h20, 20#16), (.h32, 32#16), (.h64, 64#16),
          (.hdef, 0#16), (.hdef, 256#16), (.g8, 8#16), (.g16, 16#16), (.g32, 32#16), (.gm8, 0#16),
          (.gm8, 256#16)],
        c.2.toNat ≤ block.params.maxCodeBytes ∧ legalSize c.1 c.2.toNat = true := by decide +kernel

theorem witness_StatusAfterEachSetExample :
    block.error = none ∧ block.params.wf ∧ block.params.ghPresent = true := by decide

theorem witness_CmpComputesTheDefiningForm :
    ∀ k ∈ [Kind.h4, .h8, .h16, .h20, .h32, .h64, .hdef, .g8, .g16, .g32, .gm8],
      (comparing k 8 (all 0) (all 1)).error = none ∧
        (comparing k 8 (all 0) (all 1)).held = some ⟨k, 8⟩ := by decide +kernel

/-- The state holding an H4 reference, BUF_A and BUF_B written, meets the invariant. -/
theorem comparing_inv : (comparing .h4 4 (all 0xFF) (all 0)).Inv where
  params := by decide
  memForm := by decide +kernel
  memPlaces := by unfold bufferPlaces; decide +kernel
  refForm := by decide +kernel
  refPlaces := by unfold Machine.refPlaces; decide +kernel
  comparator := by
    intro h e
    obtain rfl : h = ⟨.h4, 4⟩ := (Option.some.inj (show some (Held.mk .h4 4) = some h from e)).symm
    decide +kernel
  result := by decide +kernel

theorem witness_CmpIsTheBruteForceDistance :
    (comparing .h4 4 (all 0xFF) (all 0)).error = none ∧ (comparing .h4 4 (all 0xFF) (all 0)).Inv ∧
      (comparing .h4 4 (all 0xFF) (all 0)).held = some ⟨.h4, 4⟩ :=
  ⟨rfl, comparing_inv, rfl⟩

theorem witness_CmpAfterSetComparesTheBuffers :
    block.error = none ∧ block.params.wf ∧ block.params.ghPresent = true ∧
      (256#16).toNat ≤ block.params.maxCodeBytes ∧ legalSize .gm8 (256#16).toNat = true ∧
      legalSize .hdef (256#16).toNat = true := by decide

theorem witness_GszGivesTheCodeSizeOrNoref :
    block.error = none ∧ block.held = none ∧ (comparing .h4 4 (all 0) (all 0)).error = none ∧
      (comparing .h4 4 (all 0) (all 0)).held = some ⟨.h4, 4⟩ := by decide +kernel

theorem witness_AnErrorChangesNothingElse :
    block.error = none ∧ exec .cmp block = .next (block.raise .noref) ∧
      (block.raise .noref).error = some .noref ∧
      (asks [.access (.write 0x0040#16 (.v8 0))] block).pending =
        .access (.write 0x0040#16 (.v8 0)) :: [] ∧
      step (asks [.access (.write 0x0040#16 (.v8 0))] block) = .next (block.raise .access) ∧
      (block.raise .access).error = some .access :=
  ⟨rfl, rfl, rfl, rfl, of_after (by decide +kernel), rfl⟩

/-- Each error the table of 60_exceptions.md R257 gives a decoded command. -/
theorem witness_EachCommandRaisesOnlyItsErrors :
    (after (exec .ghw plainBlock)).bind State.error = some .illegal ∧
      (after (exec (.hamw 33) block)).bind State.error = some .range ∧
      (after (exec (.setH4 8) block)).bind State.error = some .size ∧
      (after (exec .gsz block)).bind State.error = some .noref := by decide +kernel

theorem witness_TheFirstErrorStaysUntilCleared :
    failed.error = some .size ∧ step (asks [.reset] failed) = .next (failed.resetBlock) ∧
      step failed = .next failed := ⟨rfl, rfl, rfl⟩

theorem witness_ResultCommandsFrame :
    (∀ i ∈ [Instr.popc8, .popc32, .popc64, .ghw, .hamw 1, .hamb 1, .cmp, .gsz],
      Claims.writesResult i = true ∧ (after (exec i (comparing .h8 8 (all 0) (all 1)))).isSome = true) ∧
    (comparing .h8 8 (all 0) (all 1)).error = none := by decide +kernel

theorem witness_AccumulatorCommandsFrame :
    (operands 1 0 7).error = none ∧ exec .xacc (operands 1 0 7) = .next (operands 1 0 8) ∧
      exec .aclr (operands 1 0 7) = .next (operands 1 0 0) := ⟨rfl, rfl, rfl⟩

theorem witness_SetCommandsFrame :
    block.error = none ∧ exec (Instr.ofSet .h4 4) block = .next (block.hold .h4 4 block.byteA) ∧
      exec (Instr.ofSet .h4 5) block = .next (block.raise .size) := ⟨rfl, rfl, rfl⟩

theorem witness_OnlySetAndResetChangeTheComparator :
    step (asks [cmdWrite 0x00000630#64] block) = .next (block.hold .hdef 0 block.byteA) ∧
      ¬ (asks [cmdWrite 0x00000630#64] block).sameComparator (block.hold .hdef 0 block.byteA) :=
  ⟨rfl, fun h => absurd h.1 (by decide)⟩

theorem witness_OnlyTheListedCommandsChangeResult :
    step (asks [cmdWrite 0x10#64] (operands 1 0 0)) = .next ((operands 1 0 0).setResult 1) ∧
      ((operands 1 0 0).setResult 1).result ≠ (asks [cmdWrite 0x10#64] (operands 1 0 0)).result :=
  ⟨rfl, by decide +kernel⟩

theorem witness_OperandRegistersChangeOnlyByTheHost :
    step (asks [.access (.write 0x0030#16 (.v8 9))] block) = .next (block.setOpa 9) ∧
      ¬ ∃ rest, (asks [.access (.write 0x0030#16 (.v8 9))] block).pending = .reset :: rest :=
  ⟨rfl, fun ⟨_, h⟩ => nomatch h⟩

theorem witness_BufferBytesChangeOnlyByHostWrites :
    step (asks [.access (.write 0x1000#16 (.v1 9))] (block.storeBytes 0x1000 1 (all 3))) =
        .next (block.storeBytes 0x1000 1 (all 9)) ∧
      (block.storeBytes 0x1000 1 (all 9)).byteAt 0x1000 ≠
        (asks [.access (.write 0x1000#16 (.v1 9))] (block.storeBytes 0x1000 1 (all 3))).byteAt 0x1000 :=
  ⟨of_after (by decide +kernel), by decide +kernel⟩

theorem witness_ParametersNeverChange : step (asks [cmdWrite 0x15#64] block) = .next block := rfl

theorem witness_AccelerationChangesNothingButCap :
    (¬ ∃ rest, (asks [cmdWrite 0x15#64] block).pending = .access (.read 0x0008#16 .s8) :: rest) ∧
      step (asks [cmdWrite 0x15#64] block) = .next block :=
  ⟨fun ⟨_, h⟩ => (nomatch h), rfl⟩

/-- Two states with the same named bytes and different ones beyond, for each clause. -/
theorem witness_CommandsReadOnlyTheBytesNamed :
    let s := comparing .h4 4 (all 0) (all 1)
    let u := s.storeBytes 0x2008 1 (all 7)
    s.error = none ∧ u.error = none ∧ u.params = s.params ∧ s.held = some ⟨.h4, 4⟩ ∧
      u.held = some ⟨.h4, 4⟩ ∧ legalSize .h4 (4#16).toNat = true ∧
      (∀ i < (4#16).toNat, u.byteRef i = s.byteRef i ∧ u.byteB i = s.byteB i) ∧
      8 * (0#16).toNat ≤ s.params.maxCodeBytes ∧ (4#16).toNat ≤ s.params.maxCodeBytes ∧
      (∀ i < (4#16).toNat, u.byteA i = s.byteA i) ∧
      (∀ i ∈ [Instr.cmp, .hamw 0, .hamb 4],
        (after (exec i s)).isSome = true ∧ (after (exec i u)).isSome = true) := by
  decide +kernel

theorem witness_ResetMeetsTheBlockInvariant :
    block.params.wf ∧ plainBlock.params.wf ∧ largeBlock.params.wf := by decide

theorem witness_StepKeepsTheBlockInvariant :
    (comparing .h4 4 (all 0xFF) (all 0)).Inv ∧
      step (comparing .h4 4 (all 0xFF) (all 0)) = .next (comparing .h4 4 (all 0xFF) (all 0)) :=
  ⟨comparing_inv, rfl⟩

end Sys2Proof.Tests
end

section
/-! SUPPORT. The laws of the two distances (00_scope.md R14): the facts about sums and bit counts they need, the
laws of one byte position, and the distances as sums of them. -/

namespace Sys2Proof

/-! ### Sums -/

/-- The sums of the model are Mathlib's sums over the positions below `n`. -/
theorem sumTo_eq_sum_fin (n : Nat) (f : Nat → Nat) : sumTo n f = ∑ i : Fin n, f i := by
  induction n with
  | zero => rfl
  | succ n ih => simp [sumTo, ih, Fin.sum_univ_castSucc]

/-- Reading the terms in the order of a permutation of the positions keeps the sum. -/
theorem sumTo_eq_of_perm {n : Nat} {f g : Nat → Nat} (σ : Equiv.Perm (Fin n))
    (h : ∀ i : Fin n, g i = f (σ i)) : sumTo n g = sumTo n f := by
  simp only [sumTo_eq_sum_fin, h]
  exact Equiv.sum_comp σ fun i => f i

theorem countTo_eq_of_perm {n : Nat} {p q : Nat → Bool} (σ : Equiv.Perm (Fin n))
    (h : ∀ i : Fin n, q i = p (σ i)) : countTo n q = countTo n p :=
  sumTo_eq_of_perm σ fun i => by rw [h i]

theorem le_sumTo {n i : Nat} (f : Nat → Nat) (hi : i < n) : f i ≤ sumTo n f := by
  rw [sumTo_eq_sum_fin]
  exact Finset.single_le_sum (f := fun j : Fin n => f j) (fun _ _ => Nat.zero_le _)
    (Finset.mem_univ ⟨i, hi⟩)

namespace Machine

/-! ### One byte position -/

/-- A bit of `v ^^^ w` is set only where one of `v` and `w` has it set. -/
theorem popcount_xor_le_add {n : Nat} (v w : BitVec n) : popcount (v ^^^ w) ≤ popcount v + popcount w := by
  simp only [popcount, ← sumTo_add]
  refine sumTo_le fun i _ => ?_
  rw [BitVec.getLsbD_xor]
  cases v.getLsbD i <;> cases w.getLsbD i <;> decide

theorem popcount_xor_triangle {n : Nat} (x y z : BitVec n) :
    popcount (x ^^^ z) ≤ popcount (x ^^^ y) + popcount (y ^^^ z) := by
  have through_y : x ^^^ z = (x ^^^ y) ^^^ (y ^^^ z) := by
    rw [BitVec.xor_assoc, ← BitVec.xor_assoc y, BitVec.xor_self, BitVec.zero_xor]
  rw [through_y]
  exact popcount_xor_le_add _ _

/-- A value that is not 0 has a bit that is counted. -/
theorem popcount_pos {n : Nat} {v : BitVec n} (h : v ≠ 0#n) : 0 < popcount v := by
  by_contra hzero
  refine h (BitVec.eq_of_getLsbD_eq fun i hi => ?_)
  have hbit := le_sumTo (fun j => (v.getLsbD j).toNat) hi
  cases hv : v.getLsbD i with
  | false => simp
  | true => simp only [hv, Bool.toNat_true] at hbit; exact absurd hbit hzero

/-- Bytes that differ differ in at least one bit. -/
theorem differ_le_popcount_xor (a b : Byte) : (a != b).toNat ≤ popcount (a ^^^ b) := by
  by_cases h : a = b
  · simp [h]
  · exact (Bool.toNat_le _).trans (popcount_pos (mt BitVec.xor_eq_zero_iff.mp h))

/-- Only bytes that differ have differing bits, and at most 8 of them. -/
theorem popcount_xor_le_differ (a b : Byte) : popcount (a ^^^ b) ≤ 8 * (a != b).toNat := by
  by_cases h : a = b
  · simp [h]
  · simpa [bne_iff_ne.mpr h] using popcount_le (a ^^^ b)

/-! ### The distances -/

@[simp] theorem ham_self (x : Nat → Byte) (n : Nat) : ham x x n = 0 := by
  simp [ham, sumTo_const]

@[simp] theorem gham_self (x : Nat → Byte) (n : Nat) : gham x x n = 0 := by
  simp [gham, countTo, sumTo_const]

theorem ham_comm (x y : Nat → Byte) (n : Nat) : ham x y n = ham y x n :=
  sumTo_congr fun i _ => by rw [BitVec.xor_comm]

theorem gham_comm (x y : Nat → Byte) (n : Nat) : gham x y n = gham y x n :=
  countTo_congr fun _ _ => bne_comm

theorem ham_triangle (x y z : Nat → Byte) (n : Nat) : ham x z n ≤ ham x y n + ham y z n := by
  simp only [ham, ← sumTo_add]
  exact sumTo_le fun i _ => popcount_xor_triangle (x i) (y i) (z i)

theorem gham_le_length (x y : Nat → Byte) (n : Nat) : gham x y n ≤ n := countTo_le n _

theorem gham_le_ham (x y : Nat → Byte) (n : Nat) : gham x y n ≤ ham x y n :=
  sumTo_le fun i _ => differ_le_popcount_xor (x i) (y i)

theorem ham_le_mul_gham (x y : Nat → Byte) (n : Nat) : ham x y n ≤ 8 * gham x y n := by
  simp only [ham, gham, countTo, ← sumTo_mul]
  exact sumTo_le fun i _ => popcount_xor_le_differ (x i) (y i)

theorem ham_le_bits (x y : Nat → Byte) (n : Nat) : ham x y n ≤ 8 * n :=
  (ham_le_mul_gham x y n).trans (Nat.mul_le_mul_left 8 (gham_le_length x y n))

/-- Codes whose bytes are those of `x` and `y` in the order of one permutation are as far apart as `x` and `y`. -/
theorem ham_eq_of_perm {x y x' y' : Nat → Byte} {n : Nat} (σ : Equiv.Perm (Fin n))
    (hx : ∀ i : Fin n, x' i = x (σ i)) (hy : ∀ i : Fin n, y' i = y (σ i)) : ham x' y' n = ham x y n :=
  sumTo_eq_of_perm σ fun i => by rw [hx, hy]

theorem gham_eq_of_perm {x y x' y' : Nat → Byte} {n : Nat} (σ : Equiv.Perm (Fin n))
    (hx : ∀ i : Fin n, x' i = x (σ i)) (hy : ∀ i : Fin n, y' i = y (σ i)) : gham x' y' n = gham x y n :=
  countTo_eq_of_perm σ fun i => by rw [hx, hy]

/-! ### The obligations -/

/-- Settles O42, from the laws of one byte position summed over the code. -/
theorem distancesObeyTheirLaws : Obligations.DistancesObeyTheirLaws := fun x y z n =>
  ⟨ham_self x n, gham_self x n, ham_comm x y n, gham_comm x y n, ham_triangle x y z n, ham_le_bits x y n,
    gham_le_length x y n, gham_le_ham x y n, ham_le_mul_gham x y n⟩

/-- Settles O43: both distances are sums over the positions, and a permutation only reorders the terms. -/
theorem distancesIgnoreBytePermutations : Obligations.DistancesIgnoreBytePermutations := by
  intro x y n σ move
  have moved (c : Nat → Byte) (i : Fin n) : move c i = c (σ i) := by simp [move]
  exact ⟨ham_eq_of_perm σ (moved x) (moved y), gham_eq_of_perm σ (moved x) (moved y)⟩

end Machine

end Sys2Proof
end

section
/-! SUPPORT. The state (10_state.md): the registers as the host reads them, what each command and each step can
change and what it leaves alone, independence of ACCEL_PRESENT, and the invariant of the block. -/

namespace Sys2Proof

theorem sumTo_le_mul {n c : Nat} {f : Nat → Nat} (h : ∀ i < n, f i ≤ c) : sumTo n f ≤ n * c :=
  (sumTo_le h).trans_eq (sumTo_const n c)

/-- The three families of commands (10_state.md R28, R29, R33): those that write RESULT, those that write ACC, and
SET. -/
theorem Instr.family (i : Instr) :
    Claims.writesResult i = true ∨ (i = .xacc ∨ i = .aclr) ∨ ∃ k len, i = Instr.ofSet k len := by
  cases i with
  | popc8 | popc32 | popc64 | ghw | hamw _ | hamb _ | cmp | gsz => exact .inl rfl
  | xacc => exact .inr (.inl (.inl rfl))
  | aclr => exact .inr (.inl (.inr rfl))
  | setH4 len => exact .inr (.inr ⟨.h4, len, rfl⟩)
  | setH8 len => exact .inr (.inr ⟨.h8, len, rfl⟩)
  | setH16 len => exact .inr (.inr ⟨.h16, len, rfl⟩)
  | setH20 len => exact .inr (.inr ⟨.h20, len, rfl⟩)
  | setH32 len => exact .inr (.inr ⟨.h32, len, rfl⟩)
  | setH64 len => exact .inr (.inr ⟨.h64, len, rfl⟩)
  | setHdef len => exact .inr (.inr ⟨.hdef, len, rfl⟩)
  | setG8 len => exact .inr (.inr ⟨.g8, len, rfl⟩)
  | setG16 len => exact .inr (.inr ⟨.g16, len, rfl⟩)
  | setG32 len => exact .inr (.inr ⟨.g32, len, rfl⟩)
  | setGm8 len => exact .inr (.inr ⟨.gm8, len, rfl⟩)

namespace Machine

/-! ### POPTAB, CAP and STATUS -/

theorem poptab_toNat : ∀ b : Byte, (poptab b).toNat = popcount b := by decide

theorem poptab_le (b : Byte) : (poptab b).toNat ≤ 8 :=
  (poptab_toNat b).trans_le (popcount_le b)

/-- A field of a word, read off the word's bits. -/
theorem extract_eq_of_getLsbD {n start len : Nat} {v : BitVec n} {field : BitVec len}
    (h : ∀ i < len, v.getLsbD (start + i) = field.getLsbD i) : v.extractLsb' start len = field :=
  BitVec.eq_of_getLsbD_eq fun i hi => by simp [hi, h i hi]

theorem capValue_reserved (p : Params) : (capValue p).extractLsb' 2 14 = 0#14 :=
  extract_eq_of_getLsbD fun i hi => by rw [getLsbD_capValue]; grind

theorem capValue_maxb (p : Params) : (capValue p).extractLsb' 16 16 = BitVec.ofNat 16 p.maxCodeBytes :=
  extract_eq_of_getLsbD fun i hi => by rw [getLsbD_capValue]; grind

theorem capValue_high (p : Params) : (capValue p).extractLsb' 32 32 = 0#32 :=
  extract_eq_of_getLsbD fun i hi => by rw [getLsbD_capValue]; grind

theorem statusWord_errCode (s : State) : s.statusWord.extractLsb' 4 4 = s.errCode :=
  extract_eq_of_getLsbD fun i hi => by rw [State.getLsbD_statusWord]; grind

theorem statusWord_kind (s : State) : s.statusWord.extractLsb' 12 4 = s.kindField :=
  extract_eq_of_getLsbD fun i hi => by rw [State.getLsbD_statusWord]; grind

theorem statusWord_len (s : State) : s.statusWord.extractLsb' 16 16 = s.lenField :=
  extract_eq_of_getLsbD fun i hi => by rw [State.getLsbD_statusWord]; grind

/-- The bits of STATUS that belong to no field read as 0 (10_state.md R25). -/
theorem statusWord_reserved (s : State) :
    s.statusWord.extractLsb' 1 3 = 0#3 ∧ s.statusWord.extractLsb' 9 3 = 0#3 ∧
      s.statusWord.extractLsb' 32 32 = 0#32 :=
  ⟨extract_eq_of_getLsbD fun i hi => by rw [State.getLsbD_statusWord]; grind,
    extract_eq_of_getLsbD fun i hi => by rw [State.getLsbD_statusWord]; grind,
    extract_eq_of_getLsbD fun i hi => by rw [State.getLsbD_statusWord]; grind⟩

/-! ### Steps that serve a register write -/

/-- The registers stand in the first 64 bytes of the window (10_state.md R22). -/
theorem Reg.ofOffset_lt {o : Nat} {r : Reg} (h : Reg.ofOffset o = some r) : o < 0x40 := by
  unfold Reg.ofOffset at h
  split at h <;> simp_all

/-- An 8-byte access at the offset of a register reaches it (20_memory.md R64). -/
theorem locate_of_ofOffset {off : BitVec 16} {r : Reg} (p : Params) (h : Reg.ofOffset off.toNat = some r) :
    locate p off .s8 = some (.register r) := by
  simp [locate, h, Reg.ofOffset_lt h]

/-- A step that serves the write of a register other than CMD (20_memory.md R67). -/
theorem step_writeReg {s : State} {off : BitVec 16} {v : Word} {rest : List HostEvent} {r : Reg}
    (h : s.pending = .access (.write off (.v8 v)) :: rest) (ho : Reg.ofOffset off.toNat = some r)
    (hr : r ≠ .cmd) : step s = .next ((s.withPending rest).writeReg r v) := by
  have hl := locate_of_ofOffset (s.withPending rest).params ho
  rw [step_cons h]
  simp only [serve, hostWrite, Value.size, hl]
  cases r with
  | cmd => exact absurd rfl hr
  | id | cap | status | result | acc | opa | opb => rfl

/-- A step that serves the write of CMD (10_state.md R32). -/
theorem step_cmdWrite {s : State} {v : Word} {rest : List HostEvent} (h : s.pending = cmdWrite v :: rest) :
    step s = writeCmd v (s.withPending rest) := by
  rw [step_cons h]
  rfl

theorem writeCmd_of_decode {s : State} {v : Word} {i : Instr} (he : s.error = none)
    (hd : decode s.params.ghPresent v = .ok i) : writeCmd v s = exec i s := by
  simp [writeCmd, he, hd]

/-! ### What each command can do -/

theorem exec_ofSet (k : Kind) (len : BitVec 16) (s : State) :
    exec (Instr.ofSet k len) s = .next (s.setReference k len) := by
  cases k <;> rfl

/-- A distance between codes of LEN bytes is at most their number of bits (00_scope.md R14). -/
theorem cmpDistance_le {s : State} {h : Held} (hl : legalSize h.kind h.len.toNat = true) :
    s.cmpDistance h ≤ 8 * h.len.toNat := by
  obtain ⟨k, len⟩ := h
  have word (i : Nat) : popcount (s.wordR i ^^^ s.wordB i) ≤ 64 := popcount_le _
  have half (i : Nat) : popcount (s.halfR i ^^^ s.halfB i) ≤ 32 := popcount_le _
  have ghwWord (i : Nat) : ghw (s.wordR i ^^^ s.wordB i) ≤ 8 := countTo_le 8 _
  cases k <;> simp only [legalSize, beq_iff_eq] at hl <;> simp only [State.cmpDistance]
  case h4 => have := half 0; simp only [State.cmpH4]; omega
  case h8 => have := word 0; simp only [State.cmpH8]; omega
  case h16 => have := word 0; have := word 1; simp only [State.cmpH16]; omega
  case h20 => have := word 0; have := word 1; have := half 4; simp only [State.cmpH20]; omega
  case h32 => have := sumTo_le_mul (n := 4) fun i _ => word i; simp only [State.cmpH32]; omega
  case h64 => have := sumTo_le_mul (n := 8) fun i _ => word i; simp only [State.cmpH64]; omega
  case hdef =>
    have words := sumTo_le_mul (n := len.toNat / 8) fun i _ => word i
    have bytes := sumTo_le_mul (n := len.toNat % 8) fun j _ =>
      poptab_le (s.byteRef (8 * (len.toNat / 8) + j) ^^^ s.byteB (8 * (len.toNat / 8) + j))
    simp only [State.cmpHdef]
    omega
  case g8 => have := ghwWord 0; simp only [State.cmpG8]; omega
  case g16 =>
    have : s.cmpG16 ≤ 16 := countTo_le 16 _
    omega
  case g32 =>
    have : s.cmpG32 ≤ 32 := countTo_le 32 _
    omega
  case gm8 =>
    have := sumTo_le_mul (n := len.toNat / 8) fun i _ => ghwWord i
    simp only [State.cmpGm8]
    omega

/-- A command that writes RESULT raises an error, or writes a value that is at most the largest distance when the
block is in order (10_state.md R28). -/
theorem exec_of_writesResult {i : Instr} (s : State) (hi : Claims.writesResult i = true) :
    (∃ c, exec i s = .next (s.raise c)) ∨
      ∃ n, exec i s = .next (s.setResult n) ∧ (s.Inv → n ≤ 8 * s.params.maxCodeBytes) := by
  have small {n : Nat} (hn : n ≤ 64) (hs : s.Inv) : n ≤ 8 * s.params.maxCodeBytes := by
    obtain ⟨-, hmax, -⟩ := hs.params
    omega
  cases i with
  | popc8 => exact .inr ⟨_, rfl, small ((poptab_le _).trans (by decide))⟩
  | popc32 => exact .inr ⟨_, rfl, small ((popcount_le _).trans (by decide))⟩
  | popc64 => exact .inr ⟨_, rfl, small (popcount_le _)⟩
  | ghw =>
    simp only [exec, execGhw]
    split
    · exact .inr ⟨_, rfl, small ((countTo_le 8 _).trans (by decide))⟩
    · exact .inl ⟨_, rfl⟩
  | hamw n =>
    simp only [exec, execHamw]
    split
    · exact .inl ⟨_, rfl⟩
    · refine .inr ⟨_, rfl, fun _ => ?_⟩
      have := sumTo_le_mul (n := n.toNat) fun i _ => popcount_le (s.wordA i ^^^ s.wordB i)
      simp only [xpop]
      omega
  | hamb n =>
    simp only [exec, execHamb]
    split
    · exact .inl ⟨_, rfl⟩
    · refine .inr ⟨_, rfl, fun _ => ?_⟩
      have := sumTo_le_mul (n := n.toNat) fun i _ => poptab_le (s.byteA i ^^^ s.byteB i)
      omega
  | cmp =>
    simp only [exec, execCmp]
    split
    · exact .inl ⟨_, rfl⟩
    · next h hh =>
      refine .inr ⟨_, rfl, fun hs => ?_⟩
      obtain ⟨hlegal, hlen, -⟩ := hs.comparator h hh
      have := cmpDistance_le (s := s) hlegal
      omega
  | gsz =>
    simp only [exec, execGsz]
    split
    · exact .inl ⟨_, rfl⟩
    · next h hh =>
      refine .inr ⟨_, rfl, fun hs => ?_⟩
      obtain ⟨-, hlen, -⟩ := hs.comparator h hh
      omega
  | xacc | aclr | setH4 | setH8 | setH16 | setH20 | setH32 | setH64 | setHdef | setG8 | setG16 | setG32 | setGm8 =>
    cases hi

/-- What a command can do, by its family: raise an error, write RESULT, write ACC, or hold a new reference. -/
theorem exec_effect {i : Instr} {s t : State} (h : exec i s = .next t) :
    (∃ c, t = s.raise c) ∨
      (Claims.writesResult i = true ∧ ∃ n, t = s.setResult n ∧ (s.Inv → n ≤ 8 * s.params.maxCodeBytes)) ∨
      ((i = .xacc ∨ i = .aclr) ∧ ∃ v, t = s.setAcc v) ∨
      ∃ k len, i = Instr.ofSet k len ∧ t = s.hold k len s.byteA ∧ legalSize k len.toNat = true ∧
        len.toNat ≤ s.params.maxCodeBytes ∧ (isGeneralized k = true → s.params.ghPresent = true) := by
  rcases i.family with hi | hi | ⟨k, len, rfl⟩
  · rcases exec_of_writesResult s hi with ⟨c, hc⟩ | ⟨n, hn, hle⟩
    · cases hc.symm.trans h
      exact .inl ⟨c, rfl⟩
    · cases hn.symm.trans h
      exact .inr (.inl ⟨hi, n, rfl, hle⟩)
  · refine .inr (.inr (.inl ⟨hi, ?_⟩))
    rcases hi with rfl | rfl <;> cases h <;> exact ⟨_, rfl⟩
  · cases (exec_ofSet k len s).symm.trans h
    rcases setReference_cases s k len with ⟨c, -, hc⟩ | ⟨hhold, hlegal⟩
    · exact .inl ⟨c, hc⟩
    · exact .inr (.inr (.inr ⟨k, len, rfl, hhold, hlegal⟩))

/-! ### What each step can do -/

/-- What a step can do to the block besides raising or clearing an error, by the host's move it serves. -/
inductive StepEffect (s : State) : State → Prop
  /-- only the error, the host's moves and what it has read may differ -/
  | quiet (error : Option ErrorCode) (pending : List HostEvent) (observed : List Value) :
    StepEffect s { s with error := error, pending := pending, observed := observed }
  | reset (rest : List HostEvent) (hp : s.pending = .reset :: rest) :
    StepEffect s (s.withPending rest).resetBlock
  /-- a command writes RESULT -/
  | result (v : Word) (rest : List HostEvent) (i : Instr) (n : Nat) (hp : s.pending = cmdWrite v :: rest)
    (he : s.error = none) (hd : decode s.params.ghPresent v = .ok i) (hi : Claims.writesResult i = true) :
    StepEffect s ((s.withPending rest).setResult n)
  /-- a command writes ACC -/
  | accumulate (v : Word) (rest : List HostEvent) (i : Instr) (w : Word) (hp : s.pending = cmdWrite v :: rest)
    (he : s.error = none) (hd : decode s.params.ghPresent v = .ok i) (hi : i = .xacc ∨ i = .aclr) :
    StepEffect s ((s.withPending rest).setAcc w)
  /-- SET holds a new reference -/
  | hold (v : Word) (rest : List HostEvent) (k : Kind) (len : BitVec 16) (hp : s.pending = cmdWrite v :: rest)
    (he : s.error = none) (hd : decode s.params.ghPresent v = .ok (Instr.ofSet k len)) :
    StepEffect s ((s.withPending rest).hold k len s.byteA)
  | writeAcc (v : Word) (rest : List HostEvent)
    (hp : s.pending = .access (.write 0x0028#16 (.v8 v)) :: rest) : StepEffect s ((s.withPending rest).setAcc v)
  | writeOpa (v : Word) (rest : List HostEvent)
    (hp : s.pending = .access (.write 0x0030#16 (.v8 v)) :: rest) : StepEffect s ((s.withPending rest).setOpa v)
  | writeOpb (v : Word) (rest : List HostEvent)
    (hp : s.pending = .access (.write 0x0038#16 (.v8 v)) :: rest) : StepEffect s ((s.withPending rest).setOpb v)
  /-- a write of buffer bytes -/
  | store (off : BitVec 16) (v : Value) (rest : List HostEvent)
    (hp : s.pending = .access (.write off v) :: rest) :
    StepEffect s ((s.withPending rest).storeBytes off.toNat v.size.bytes v.byte)

theorem StepEffect.of_writeReg {s : State} {off : BitVec 16} {v : Word} {rest : List HostEvent} {r : Reg}
    (hp : s.pending = .access (.write off (.v8 v)) :: rest) (ho : Reg.ofOffset off.toNat = some r) :
    StepEffect s ((s.withPending rest).writeReg r v) := by
  cases r with
  | id | cap | cmd | result => exact .quiet _ _ _
  | status =>
    simp only [State.writeReg, State.writeStatus]
    split <;> exact .quiet _ _ _
  | acc =>
    obtain rfl := Reg.ofOffset_inj (b := 0x0028#16) ho rfl
    exact .writeAcc v rest hp
  | opa =>
    obtain rfl := Reg.ofOffset_inj (b := 0x0030#16) ho rfl
    exact .writeOpa v rest hp
  | opb =>
    obtain rfl := Reg.ofOffset_inj (b := 0x0038#16) ho rfl
    exact .writeOpb v rest hp

theorem StepEffect.of_exec {s t : State} {v : Word} {rest : List HostEvent} {i : Instr}
    (hp : s.pending = cmdWrite v :: rest) (he : s.error = none) (hd : decode s.params.ghPresent v = .ok i)
    (h : exec i (s.withPending rest) = .next t) : StepEffect s t := by
  rcases exec_effect h with ⟨c, rfl⟩ | ⟨hi, n, rfl, -⟩ | ⟨hi, w, rfl⟩ | ⟨k, len, rfl, rfl, -⟩
  · exact .quiet _ _ _
  · exact .result v rest i n hp he hd hi
  · exact .accumulate v rest i w hp he hd hi
  · exact .hold v rest k len hp he hd

theorem step_effect {s t : State} (h : step s = .next t) : StepEffect s t := by
  rcases step_cases h with ⟨-, rfl⟩ | ⟨e, rest, hp, hmove⟩
  · exact .quiet _ _ _
  · rcases hmove with ⟨rfl, rfl⟩ | ⟨off, n, v, rfl, rfl | rfl⟩ | ⟨off, v, rfl, rfl⟩ |
      ⟨v, rfl, ⟨-, rfl⟩ | ⟨-, rfl⟩ | ⟨he, i, hd, hx⟩⟩ | ⟨r, off, v, -, ho, rfl, rfl⟩ | ⟨off, v, rfl, rfl⟩
    · exact .reset rest hp
    · exact .quiet _ _ _
    · exact .quiet _ _ _
    · exact .quiet _ _ _
    · exact .quiet _ _ _
    · exact .quiet _ _ _
    · exact .of_exec hp he hd hx
    · exact .of_writeReg hp ho
    · exact .store off v rest hp

/-! ### Blocks that differ in ACCEL_PRESENT -/

theorem setReference_withAccel (b : Bool) (s : State) (k : Kind) (len : BitVec 16) :
    (Claims.withAccel b s).setReference k len = Claims.withAccel b (s.setReference k len) := by
  simp only [State.setReference, apply_ite (Claims.withAccel b)]
  rfl

/-- No command looks at ACCEL_PRESENT (10_state.md R38). -/
theorem exec_withAccel {i : Instr} {s t : State} (b : Bool) (h : exec i s = .next t) :
    exec i (Claims.withAccel b s) = .next (Claims.withAccel b t) := by
  cases i with
  | popc8 | popc32 | popc64 | xacc | aclr => cases h; rfl
  | ghw | hamw _ | hamb _ => cases h; rw [apply_ite (Claims.withAccel b)]; rfl
  | cmp | gsz =>
    cases h
    obtain ⟨_, _, _ | _⟩ := s <;> rfl
  | setH4 | setH8 | setH16 | setH20 | setH32 | setH64 | setHdef | setG8 | setG16 | setG32 | setGm8 =>
    cases h
    exact congrArg Host.Outcome.next (setReference_withAccel b s _ _)

theorem writeCmd_withAccel {v : Word} {s t : State} (b : Bool) (h : writeCmd v s = .next t) :
    writeCmd v (Claims.withAccel b s) = .next (Claims.withAccel b t) := by
  rcases writeCmd_cases v s with ⟨he, hw⟩ | ⟨he, ⟨e, hd⟩, hw⟩ | ⟨he, i, hd, hw⟩
  · cases hw.symm.trans h
    obtain ⟨e, he⟩ := Option.isSome_iff_exists.mp he
    simp [writeCmd, Claims.withAccel, he]
  · cases hw.symm.trans h
    simp [writeCmd, Claims.withAccel, he, hd, State.raise]
  · rw [writeCmd_of_decode (s := Claims.withAccel b s) he hd]
    exact exec_withAccel b (hw.symm.trans h)

theorem writeReg_withAccel (b : Bool) (s : State) (r : Reg) (v : Word) :
    (Claims.withAccel b s).writeReg r v = Claims.withAccel b (s.writeReg r v) := by
  cases r with
  | status =>
    simp only [State.writeReg, State.writeStatus, apply_ite (Claims.withAccel b)]
    rfl
  | id | cap | cmd | result | acc | opa | opb => rfl

theorem hostWrite_withAccel {off : BitVec 16} {v : Value} {s t : State} (b : Bool)
    (h : hostWrite off v s = .next t) :
    hostWrite off v (Claims.withAccel b s) = .next (Claims.withAccel b t) := by
  have hl : locate (Claims.withAccel b s).params off v.size = locate s.params off v.size := rfl
  rcases hostWrite_cases off v s with
    ⟨hn, hw⟩ | ⟨hn, hw⟩ | ⟨r, hr, hn, hw⟩ | ⟨p, hn, hw⟩ | ⟨p, hn, hw⟩ <;> rw [hw] at h
  · cases h
    simp only [hostWrite, hl, hn]
    rfl
  · simp only [hostWrite, hl, hn]
    exact writeCmd_withAccel b h
  · cases h
    simp only [hostWrite, hl, hn, writeReg_withAccel]
  · cases h
    simp only [hostWrite, hl, hn]
    rfl
  · cases h
    simp only [hostWrite, hl, hn]
    rfl

/-- Only a read of CAP sees ACCEL_PRESENT (10_state.md R38). -/
theorem hostRead_withAccel {off : BitVec 16} {n : Size} (b : Bool) (s : State)
    (hcap : ¬ (off = 0x0008#16 ∧ n = .s8)) :
    (Claims.withAccel b s).hostRead off n = Claims.withAccel b (s.hostRead off n) := by
  have hl : locate (Claims.withAccel b s).params off n = locate s.params off n := rfl
  simp only [State.hostRead, hl]
  cases ht : locate s.params off n with
  | none => rfl
  | some target =>
    cases target with
    | bufA p | bufB p => rfl
    | register r =>
      obtain ⟨hn, ho⟩ := locate_register ht
      cases r with
      | cap => exact absurd ⟨Reg.ofOffset_inj (b := 0x0008#16) ho rfl, hn⟩ hcap
      | id | status | cmd | result | acc | opa | opb => rfl

/-! ### The invariant -/

section Invariant
variable {s t : State} (hs : s.Inv)
include hs

/-- An update of other fields keeps the invariant. -/
theorem State.Inv.congr (hp : t.params = s.params) (hm : t.mem = s.mem) (hr : t.ref = s.ref)
    (hh : t.held = s.held) (hres : t.result = s.result) : t.Inv := by
  obtain ⟨h1, h2, h3, h4, h5, h6, h7⟩ := hs
  constructor
  all_goals simp only [comparatorLegal, hp, hm, hr, hh, hres]; assumption

theorem State.Inv.setResult {n : Nat} (hn : n ≤ 8 * s.params.maxCodeBytes) : (s.setResult n).Inv where
  params := hs.params
  memForm := hs.memForm
  memPlaces := hs.memPlaces
  refForm := hs.refForm
  refPlaces := hs.refPlaces
  comparator := hs.comparator
  result := by
    rw [State.setResult_result, BitVec.toNat_ofNat]
    exact (Nat.mod_le _ _).trans hn

theorem State.Inv.hold {k : Kind} {len : BitVec 16} (f : Nat → Byte) (hlegal : legalSize k len.toNat = true)
    (hlen : len.toNat ≤ s.params.maxCodeBytes) (hgh : isGeneralized k = true → s.params.ghPresent = true) :
    (s.hold k len f).Inv where
  params := hs.params
  memForm := hs.memForm
  memPlaces := hs.memPlaces
  refForm := Memory.wf_storeRange hs.refForm _ _ _
  refPlaces c hc := by
    rcases Memory.mem_storeRange hc with hnew | hold
    · rw [State.hold_params]
      omega
    · exact hs.refPlaces c hold
  comparator h hh := by
    cases hh
    refine ⟨hlegal, hlen, hgh, fun i hi => ?_⟩
    simp [Memory.find_storeRange, show i < len.toNat from hi]
  result := hs.result

theorem State.Inv.storeBytes {off n : Nat} (f : Nat → Byte)
    (hplace : (bufABase ≤ off ∧ off + n ≤ bufABase + s.params.maxCodeBytes) ∨
      (bufBBase ≤ off ∧ off + n ≤ bufBBase + s.params.maxCodeBytes)) : (s.storeBytes off n f).Inv where
  params := hs.params
  memForm := Memory.wf_storeRange hs.memForm _ _ _
  memPlaces c hc := by
    rcases Memory.mem_storeRange hc with hnew | hold
    · rw [State.storeBytes_params]
      omega
    · exact hs.memPlaces c hold
  refForm := hs.refForm
  refPlaces := hs.refPlaces
  comparator := hs.comparator
  result := hs.result

theorem State.Inv.resetBlock : s.resetBlock.Inv where
  params := hs.params
  memForm := List.Pairwise.nil
  memPlaces _ hc := absurd hc List.not_mem_nil
  refForm := List.Pairwise.nil
  refPlaces _ hc := absurd hc List.not_mem_nil
  comparator _ hh := absurd hh.symm (Option.some_ne_none _)
  result := Nat.zero_le _

theorem State.Inv.writeReg (r : Reg) (v : Word) : (s.writeReg r v).Inv := by
  cases r with
  | id | cap | cmd | result => exact hs
  | status =>
    simp only [State.writeReg, State.writeStatus]
    split
    · exact hs.congr rfl rfl rfl rfl rfl
    · exact hs
  | acc | opa | opb => exact hs.congr rfl rfl rfl rfl rfl

theorem State.Inv.exec {i : Instr} (h : exec i s = .next t) : t.Inv := by
  rcases exec_effect h with ⟨c, rfl⟩ | ⟨-, n, rfl, hn⟩ | ⟨-, w, rfl⟩ | ⟨k, len, -, rfl, hlegal, hlen, hgh⟩
  · exact hs.congr rfl rfl rfl rfl rfl
  · exact hs.setResult (hn hs)
  · exact hs.congr rfl rfl rfl rfl rfl
  · exact hs.hold _ hlegal hlen hgh

theorem State.Inv.writeCmd {v : Word} (h : writeCmd v s = .next t) : t.Inv := by
  rcases writeCmd_cases v s with ⟨-, hw⟩ | ⟨-, -, hw⟩ | ⟨-, i, -, hw⟩ <;> rw [hw] at h
  · cases h
    exact hs
  · cases h
    exact hs.congr rfl rfl rfl rfl rfl
  · exact hs.exec h

theorem State.Inv.hostWrite {off : BitVec 16} {v : Value} (h : hostWrite off v s = .next t) : t.Inv := by
  rcases hostWrite_cases off v s with
    ⟨-, hw⟩ | ⟨-, hw⟩ | ⟨r, -, -, hw⟩ | ⟨p, hl, hw⟩ | ⟨p, hl, hw⟩ <;> rw [hw] at h
  · cases h
    exact hs.congr rfl rfl rfl rfl rfl
  · exact hs.writeCmd h
  · cases h
    exact hs.writeReg r _
  · cases h
    obtain ⟨-, -, hfit⟩ := locate_bufA hl
    exact hs.storeBytes _ (.inl ⟨by omega, by omega⟩)
  · cases h
    obtain ⟨-, -, hfit⟩ := locate_bufB hl
    exact hs.storeBytes _ (.inr ⟨by omega, by omega⟩)

theorem State.Inv.hostRead (off : BitVec 16) (n : Size) : (s.hostRead off n).Inv := by
  unfold State.hostRead
  split <;> exact hs.congr rfl rfl rfl rfl rfl

theorem State.Inv.serve {e : HostEvent} (h : serve e s = .next t) : t.Inv := by
  match e with
  | .access (.read off n) => cases h; exact hs.hostRead off n
  | .access (.write off v) => exact hs.hostWrite h
  | .reset => cases h; exact hs.resetBlock

end Invariant

/-! ### The obligations -/

/-- Settles O59: every update a step can make of the state keeps the invariant. -/
theorem stepKeepsTheBlockInvariant : Obligations.StepKeepsTheBlockInvariant := by
  intro s t hs h
  cases hp : s.pending with
  | nil =>
    cases (step_nil hp).symm.trans h
    exact hs
  | cons e rest =>
    have idle : (s.withPending rest).Inv := hs.congr rfl rfl rfl rfl rfl
    exact idle.serve ((step_cons hp).symm.trans h)

/-- Settles O4: the table entry by entry, then the word by its eight byte lanes. -/
theorem poptabIsThePopulationCount : Obligations.PoptabIsThePopulationCount :=
  ⟨poptab_toNat, fun v =>
    (popcount_lanes (w := 8) (n := 8) v rfl).trans (sumTo_congr fun _ _ => (poptab_toNat _).symm)⟩

/-- Settles O48: such a command raises an error or writes RESULT, and either update keeps the rest. -/
theorem resultCommandsFrame : Obligations.ResultCommandsFrame := by
  intro i s t hi he h
  rcases exec_of_writesResult s hi with ⟨c, hc⟩ | ⟨n, hn, -⟩
  · cases hc.symm.trans h
    exact ⟨rfl, rfl, rfl, fun _ => rfl, ⟨rfl, fun _ => rfl⟩, ⟨rfl, rfl, rfl, rfl⟩, .inr rfl⟩
  · cases hn.symm.trans h
    exact ⟨rfl, rfl, rfl, fun _ => rfl, ⟨rfl, fun _ => rfl⟩, ⟨rfl, rfl, rfl, rfl⟩, .inl he⟩

/-- Settles O51: of all effects of a step only those of SET and of reset touch the comparator. -/
theorem onlySetAndResetChangeTheComparator : Obligations.OnlySetAndResetChangeTheComparator := by
  intro s t h changed
  cases step_effect h with
  | reset rest hp => exact .inl ⟨rest, hp⟩
  | hold v rest k len hp he hd => exact .inr ⟨v, rest, k, len, hp, he, hd, rfl⟩
  | quiet | result | accumulate | writeAcc | writeOpa | writeOpb | store =>
    exact absurd ⟨rfl, fun _ => rfl⟩ changed

/-- Settles O52: of all effects of a step only those of the listed commands and of reset touch RESULT. -/
theorem onlyTheListedCommandsChangeResult : Obligations.OnlyTheListedCommandsChangeResult := by
  intro s t h changed
  cases step_effect h with
  | reset rest hp => exact .inl ⟨rest, hp⟩
  | result v rest i _ hp he hd hi => exact .inr ⟨v, rest, i, hp, he, hd, hi⟩
  | quiet | accumulate | hold | writeAcc | writeOpa | writeOpb | store => exact absurd rfl changed

/-- Settles O53: a step keeps all three registers, or writes the one its move names. -/
theorem operandRegistersChangeOnlyByTheHost : Obligations.OperandRegistersChangeOnlyByTheHost := by
  intro s t h notReset
  cases step_effect h with
  | reset rest hp => exact absurd ⟨rest, hp⟩ notReset
  | accumulate v rest i _ hp he hd hi => exact ⟨.inl rfl, .inl rfl, .inr (.inr ⟨v, rest, i, hp, he, hd, hi⟩)⟩
  | writeAcc v rest hp => exact ⟨.inl rfl, .inl rfl, .inr (.inl ⟨rest, hp⟩)⟩
  | writeOpa v rest hp => exact ⟨.inr ⟨rest, hp⟩, .inl rfl, .inl rfl⟩
  | writeOpb v rest hp => exact ⟨.inl rfl, .inr ⟨rest, hp⟩, .inl rfl⟩
  | quiet | result | hold | store => exact ⟨.inl rfl, .inl rfl, .inl rfl⟩

/-- Settles O54: only a buffer write stores, and `State.byteAt_storeBytes` says which bytes. -/
theorem bufferBytesChangeOnlyByHostWrites : Obligations.BufferBytesChangeOnlyByHostWrites := by
  intro s t a h changed
  cases step_effect h with
  | reset rest hp => exact .inl ⟨rest, hp⟩
  | store off v rest hp =>
    rw [State.byteAt_storeBytes, State.withPending_byteAt] at changed ⊢
    by_cases covered : off.toNat ≤ a ∧ a < off.toNat + v.size.bytes
    · exact .inr ⟨off, v, rest, hp, covered.1, covered.2, if_pos covered⟩
    · exact absurd (if_neg covered) changed
  | quiet | result | accumulate | hold | writeAcc | writeOpa | writeOpb => exact absurd rfl changed

/-- Settles O55: no effect of a step touches the parameters, reset included. -/
theorem parametersNeverChange : Obligations.ParametersNeverChange := by
  intro s t h
  cases step_effect h with
  | quiet | reset | result | accumulate | hold | writeAcc | writeOpa | writeOpb | store => rfl

/-- Settles O56: every move but a read of CAP is served alike on both blocks. -/
theorem accelerationChangesNothingButCap : Obligations.AccelerationChangesNothingButCap := by
  intro b s t notCap h
  cases hp : s.pending with
  | nil =>
    cases (step_nil hp).symm.trans h
    exact step_nil hp
  | cons e rest =>
    rw [step_cons hp] at h
    rw [step_cons (s := Claims.withAccel b s) hp]
    match e with
    | .reset => cases h; rfl
    | .access (.write off v) => exact hostWrite_withAccel b h
    | .access (.read off n) =>
      cases h
      have hcap : ¬ (off = 0x0008#16 ∧ n = .s8) := by
        rintro ⟨rfl, rfl⟩
        exact notCap ⟨rest, hp⟩
      exact congrArg Host.Outcome.next (hostRead_withAccel b (s.withPending rest) hcap)

/-- Settles O2, from the bits of CAP; MAXB fits its 16 bits because the parameters are allowed ones. -/
theorem idAndCapAreTheirConstants : Obligations.IdAndCapAreTheirConstants := by
  intro s hwf
  obtain ⟨-, -, hmax⟩ := hwf
  have hmaxb : (BitVec.ofNat 16 s.params.maxCodeBytes).toNat = s.params.maxCodeBytes :=
    Nat.mod_eq_of_lt (by omega)
  exact ⟨rfl, getLsbD_capValue s.params 0, getLsbD_capValue s.params 1, capValue_reserved _,
    (congrArg BitVec.toNat (capValue_maxb _)).trans hmaxb, capValue_high _⟩

/-- Settles O3, from the fields of STATUS. -/
theorem statusFieldsAreWhereStated : Obligations.StatusFieldsAreWhereStated := by
  intro s
  obtain ⟨r1, r9, r32⟩ := statusWord_reserved s
  have code := statusWord_errCode s
  have kind := statusWord_kind s
  have len := statusWord_len s
  refine ⟨s.getLsbD_statusWord 0, r1, fun he => ?_, fun e he => ?_, s.getLsbD_statusWord 8, r9, fun hh => ?_,
    fun h hh => ?_, r32⟩
  · simp [State.readReg, code, State.errCode, he]
  · simp only [State.readReg, code, State.errCode, he]
    cases e <;> rfl
  · simp [State.readReg, kind, len, State.kindField, State.lenField, hh]
  · simp [State.readReg, kind, len, State.kindField, State.lenField, hh]

/-- Settles O10: the step serves the CMD write, and the write executes what it decodes to. -/
theorem stepRunsTheDecodedCommand : Obligations.StepRunsTheDecodedCommand := by
  intro s v rest i hp he hd
  rw [step_cmdWrite hp]
  exact writeCmd_of_decode (s := s.withPending rest) he hd

/-- Settles O13, as the register write of STATUS. -/
theorem statusWriteClearsTheError : Obligations.StatusWriteClearsTheError := by
  intro s v rest hp
  rw [step_writeReg hp (r := .status) rfl (by decide)]
  exact ⟨fun hv => congrArg Host.Outcome.next (if_pos hv),
    fun hv => congrArg Host.Outcome.next (if_neg (Bool.eq_false_iff.mp hv))⟩

/-- Settles O14, as the writes of these six registers. -/
theorem registerWritesDoWhatTheMapSays : Obligations.RegisterWritesDoWhatTheMapSays := by
  intro s v rest
  refine ⟨fun off hoff hp => ?_, fun hp => ?_, fun hp => ?_, fun hp => ?_⟩
  · simp only [List.mem_cons, List.not_mem_nil, or_false] at hoff
    rcases hoff with rfl | rfl | rfl
    · exact step_writeReg hp (r := .id) rfl (by decide)
    · exact step_writeReg hp (r := .cap) rfl (by decide)
    · exact step_writeReg hp (r := .result) rfl (by decide)
  · exact step_writeReg hp (r := .acc) rfl (by decide)
  · exact step_writeReg hp (r := .opa) rfl (by decide)
  · exact step_writeReg hp (r := .opb) rfl (by decide)

end Machine
end Sys2Proof
end

section
/-! SUPPORT. Host accesses (20_memory.md): which access reaches what, the bytes of an access value, and the steps
that serve a read, a buffer write and a bad access. -/

namespace Sys2Proof.Machine

/-! ### Which access reaches what -/

theorem Size.bytes_pos (n : Size) : 0 < n.bytes := by
  cases n <;> decide

/-- Both buffers start at a multiple of every access size (20_memory.md R62). -/
theorem Size.bytes_dvd_base (n : Size) : ∀ base ∈ [0x1000, 0x2000], n.bytes ∣ base := by
  cases n <;> decide

/-- Every multiple of 8 below 0x40 is the offset of a register (10_state.md R22). -/
theorem Reg.ofOffset_isSome : ∀ o < 0x40, ((Reg.ofOffset o).isSome = true ↔ o % 8 = 0) := by
  decide

/-- The accesses that reach something are those that are not bad (20_memory.md R64, R65). -/
theorem locate_isSome_iff (p : Params) (off : BitVec 16) (n : Size) :
    (locate p off n).isSome = true ↔ Claims.GoodAccess p off n := by
  dsimp only [locate, Claims.GoodAccess]
  by_cases hreg : off.toNat < 0x40
  · have := Reg.ofOffset_isSome off.toNat hreg
    rw [if_pos hreg]
    by_cases hn : n = .s8
    · simp only [hn, if_true, Option.isSome_map, this, hreg, true_and, Size.bytes]
      omega
    · simp only [hn, if_false, Option.isSome_none, Bool.false_eq_true, false_and, and_false, false_or, false_iff]
      omega
  · rw [if_neg hreg]
    by_cases ha : off.toNat % n.bytes = 0
    · simp [hreg, ha, apply_ite Option.isSome]
      rfl
    · simp [hreg, ha]

/-- The window offset of an aligned access inside the buffer at `base` fits its 16 bits and is aligned too. -/
theorem bufferOffset_toNat_aligned {p : Params} {base i : Nat} {n : Size} (hwf : p.wf) (ha : i % n.bytes = 0)
    (hi : i + n.bytes ≤ p.maxCodeBytes) (hbase : base ∈ [0x1000, 0x2000]) :
    (BitVec.ofNat 16 (base + i)).toNat = base + i ∧ (base + i) % n.bytes = 0 := by
  have haligned := Nat.dvd_add (n.bytes_dvd_base base hbase) (Nat.dvd_of_mod_eq_zero ha)
  have hle : base ≤ 0x2000 := by
    simp only [List.mem_cons, List.not_mem_nil, or_false] at hbase
    omega
  exact ⟨Nat.mod_eq_of_lt (by omega), Nat.mod_eq_zero_of_dvd haligned⟩

/-- An aligned access inside BUF_A reaches it (20_memory.md R65). -/
theorem locate_ofNat_bufA {p : Params} {i : Nat} {n : Size} (hwf : p.wf) (ha : i % n.bytes = 0)
    (hi : i + n.bytes ≤ p.maxCodeBytes) : locate p (BitVec.ofNat 16 (0x1000 + i)) n = some (.bufA i) := by
  obtain ⟨hoff, haligned⟩ := bufferOffset_toNat_aligned (base := 0x1000) hwf ha hi (by decide)
  simp only [locate, hoff, bufABase]
  rw [if_neg (by omega), if_neg (by omega), if_pos (by omega), Nat.add_sub_cancel_left]

/-- An aligned access inside BUF_B reaches it (20_memory.md R65). -/
theorem locate_ofNat_bufB {p : Params} {i : Nat} {n : Size} (hwf : p.wf) (ha : i % n.bytes = 0)
    (hi : i + n.bytes ≤ p.maxCodeBytes) : locate p (BitVec.ofNat 16 (0x2000 + i)) n = some (.bufB i) := by
  have := n.bytes_pos
  obtain ⟨hoff, haligned⟩ := bufferOffset_toNat_aligned (base := 0x2000) hwf ha hi (by decide)
  simp only [locate, hoff, bufABase, bufBBase]
  rw [if_neg (by omega), if_neg (by omega), if_neg (by omega), if_pos (by omega), Nat.add_sub_cancel_left]

/-! ### The bytes of an access value -/

@[simp] theorem Value.size_ofBytes (n : Size) (x : Nat → Byte) : (Value.ofBytes n x).size = n := by
  cases n <;> rfl

theorem extract_pairOf (x : Nat → Byte) (j : Nat) (h : j < 2) : (pairOf x).extractLsb' (8 * j) 8 = x j :=
  extract_eq_of_getLsbD fun i hi => by
    change BitVec.getLsbD (w := 8 + 8) (_ ++ _) _ = _
    rw [BitVec.getLsbD_append]
    interval_cases j <;> grind

/-- Byte `j` of the value that bytes make up is the `j`-th of them (20_memory.md R63). -/
theorem Value.byte_ofBytes {n : Size} (x : Nat → Byte) {j : Nat} (h : j < n.bytes) :
    (Value.ofBytes n x).byte j = x j := by
  cases n with
  | s1 =>
    obtain rfl : j = 0 := Nat.lt_one_iff.mp h
    exact BitVec.extractLsb'_eq_self
  | s2 => exact extract_pairOf x j h
  | s4 => exact (extract_halfOf x 0 j h).trans (by rw [Nat.mul_zero, Nat.zero_add])
  | s8 => exact (extract_wordOf x 0 j h).trans (by rw [Nat.mul_zero, Nat.zero_add])

@[simp] theorem Value.size_zero (n : Size) : (Value.zero n).size = n := by
  cases n <;> rfl

@[simp] theorem Value.byte_zero (n : Size) (j : Nat) : (Value.zero n).byte j = 0 := by
  cases n <;> exact extract_eq_of_getLsbD fun i _ => by simp

/-! ### Steps that serve an access -/

/-- A bad access leaves the error that is held, or ACCESS (20_memory.md R68). -/
theorem State.badAccess_eq (s : State) : s.badAccess = { s with error := some (s.error.getD .access) } := by
  simp only [State.badAccess, State.raise]
  cases s.error <;> rfl

/-- A read does not look at what the host does next (20_memory.md R66). -/
theorem State.readTarget_withPending (s : State) (rest : List HostEvent) (n : Size) (t : Target) :
    (s.withPending rest).readTarget n t = s.readTarget n t := by
  cases t with
  | register r => cases r <;> rfl
  | bufA | bufB => rfl

/-- A read does not look at what was read before (20_memory.md R70). -/
theorem State.readTarget_observe (s : State) (v : Value) (n : Size) (t : Target) :
    (s.observe v).readTarget n t = s.readTarget n t := by
  cases t with
  | register r => cases r <;> rfl
  | bufA | bufB => rfl

section
variable {s : State} {rest : List HostEvent}

/-- A step that serves a read of what the map says is there (20_memory.md R66). -/
theorem step_read_of_locate {off : BitVec 16} {n : Size} {t : Target}
    (hp : s.pending = .access (.read off n) :: rest) (hl : locate s.params off n = some t) :
    step s = .next ((s.withPending rest).observe (s.readTarget n t)) := by
  rw [step_cons hp]
  simp only [serve, State.hostRead, State.withPending_params, hl, State.readTarget_withPending]

/-- A step that serves a bad read (20_memory.md R68). -/
theorem step_read_of_locate_none {off : BitVec 16} {n : Size}
    (hp : s.pending = .access (.read off n) :: rest) (hl : locate s.params off n = none) :
    step s = .next ((s.withPending rest).badAccess.observe (Value.zero n)) := by
  rw [step_cons hp]
  simp only [serve, State.hostRead, State.withPending_params, hl]

/-- A step that serves a bad write (20_memory.md R68). -/
theorem step_write_of_locate_none {off : BitVec 16} {v : Value}
    (hp : s.pending = .access (.write off v) :: rest) (hl : locate s.params off v.size = none) :
    step s = .next (s.withPending rest).badAccess := by
  rw [step_cons hp]
  simp only [serve, hostWrite, State.withPending_params, hl]

/-- A step that serves the read of a register (20_memory.md R66). -/
theorem step_readReg {off : BitVec 16} {r : Reg} (hp : s.pending = .access (.read off .s8) :: rest)
    (ho : Reg.ofOffset off.toNat = some r) :
    step s = .next ((s.withPending rest).observe (.v8 (s.readReg r))) :=
  step_read_of_locate hp (locate_of_ofOffset s.params ho)

/-- A step that serves an aligned read inside the buffer at `base` (20_memory.md R66). -/
theorem step_readBuffer {base i : Nat} {n : Size} (hwf : s.params.wf) (ha : i % n.bytes = 0)
    (hi : i + n.bytes ≤ s.params.maxCodeBytes) (hbase : base ∈ [0x1000, 0x2000])
    (hp : s.pending = .access (.read (BitVec.ofNat 16 (base + i)) n) :: rest) :
    step s = .next ((s.withPending rest).observe (Value.ofBytes n fun j => s.byteAt (base + (i + j)))) := by
  simp only [List.mem_cons, List.not_mem_nil, or_false] at hbase
  rcases hbase with rfl | rfl
  · exact step_read_of_locate hp (locate_ofNat_bufA hwf ha hi)
  · exact step_read_of_locate hp (locate_ofNat_bufB hwf ha hi)

/-- A step that serves an aligned write inside the buffer at `base` (20_memory.md R67). -/
theorem step_writeBuffer {base i : Nat} {v : Value} (hwf : s.params.wf) (ha : i % v.size.bytes = 0)
    (hi : i + v.size.bytes ≤ s.params.maxCodeBytes) (hbase : base ∈ [0x1000, 0x2000])
    (hp : s.pending = .access (.write (BitVec.ofNat 16 (base + i)) v) :: rest) :
    step s = .next ((s.withPending rest).storeBytes (base + i) v.size.bytes v.byte) := by
  rw [step_cons hp]
  simp only [List.mem_cons, List.not_mem_nil, or_false] at hbase
  rcases hbase with rfl | rfl
  · simp only [serve, hostWrite, State.withPending_params, locate_ofNat_bufA hwf ha hi]
    rfl
  · simp only [serve, hostWrite, State.withPending_params, locate_ofNat_bufB hwf ha hi]
    rfl

end

/-! ### The obligations -/

/-- Settles O15: a register by its offset, a buffer by its base. -/
theorem readsReturnWhatTheMapSays : Obligations.ReadsReturnWhatTheMapSays := by
  intro s rest hwf
  refine ⟨fun c hc hp => ?_, fun n p ha hi => ⟨fun hp => ?_, fun hp => ?_⟩⟩
  · simp only [List.mem_cons, List.not_mem_nil, or_false] at hc
    rcases hc with rfl | rfl | rfl | rfl | rfl | rfl | rfl | rfl
    · exact step_readReg hp (r := .id) rfl
    · exact step_readReg hp (r := .cap) rfl
    · exact step_readReg hp (r := .status) rfl
    · exact step_readReg hp (r := .cmd) rfl
    · exact step_readReg hp (r := .result) rfl
    · exact step_readReg hp (r := .acc) rfl
    · exact step_readReg hp (r := .opa) rfl
    · exact step_readReg hp (r := .opb) rfl
  · exact ⟨_, Value.size_ofBytes n _, fun j hj => Value.byte_ofBytes _ hj,
      step_readBuffer hwf ha hi (by decide) hp⟩
  · exact ⟨_, Value.size_ofBytes n _, fun j hj => Value.byte_ofBytes _ hj,
      step_readBuffer hwf ha hi (by decide) hp⟩

/-- Settles O16: the step stores the bytes of the value, and `State.byteAt_storeBytes` says where. -/
theorem bufferWritesStoreTheirBytes : Obligations.BufferWritesStoreTheirBytes := by
  intro s v p rest hwf ha hi base hbase hp
  exact ⟨_, step_writeBuffer hwf ha hi hbase hp, State.byteAt_storeBytes _ _ _ _, rfl⟩

/-- Settles O17: the read returns the byte the write stored at its address. -/
theorem mixedWidthAccessesAreLittleEndian : Obligations.MixedWidthAccessesAreLittleEndian := by
  intro s v k j rest hwf hj hi base hbase hp
  rw [Nat.add_assoc base] at hp
  refine ⟨_, _, step_writeBuffer (v := .v8 v) hwf (Nat.mul_mod_right 8 k) hi hbase hp,
    step_readBuffer (i := 8 * k + j) (n := .s1) hwf (Nat.mod_one _) ?_ hbase rfl, ?_⟩
  · simp only [State.storeBytes_params, State.withPending_params, Size.bytes]
    omega
  · have covered : base + 8 * k ≤ base + (8 * k + j) ∧ base + (8 * k + j) < base + 8 * k + 8 := by omega
    have hbyte : base + (8 * k + j) - (base + 8 * k) = j := by omega
    simp [Value.ofBytes, Value.size, Size.bytes, Value.byte, State.byteAt_storeBytes, covered, hbyte]

/-- Settles O18: an access that is not good reaches nothing. -/
theorem badAccessesChangeOnlyTheError : Obligations.BadAccessesChangeOnlyTheError := by
  intro s off rest _
  have reachesNothing {n : Size} (hbad : ¬ Claims.GoodAccess s.params off n) : locate s.params off n = none :=
    Option.not_isSome_iff_eq_none.mp (mt (locate_isSome_iff s.params off n).mp hbad)
  refine ⟨fun n hbad hp => ⟨Value.zero n, Value.size_zero n, Value.byte_zero n, ?_⟩, fun v hbad hp => ?_⟩
  · rw [step_read_of_locate_none hp (reachesNothing hbad), State.badAccess_eq]
    rfl
  · rw [step_write_of_locate_none hp (reachesNothing hbad), State.badAccess_eq]
    rfl

/-- Settles O19: a good read reaches the same target both times, and the first read leaves what it reads alone. -/
theorem readsAreIdempotent : Obligations.ReadsAreIdempotent := by
  intro s off n rest hgood _ hp
  obtain ⟨target, hl⟩ := Option.isSome_iff_exists.mp ((locate_isSome_iff s.params off n).mpr hgood)
  refine ⟨_, _, s.readTarget n target, step_read_of_locate hp hl, step_read_of_locate rfl hl, ?_⟩
  rw [State.readTarget_observe, State.readTarget_withPending]
  simp [State.observe, State.withPending]

/-- Settles O20: the offset of an address inside the window fits its 16 bits. -/
theorem windowOffsetIsAddressMinusBase : Obligations.WindowOffsetIsAddressMinusBase := by
  refine ⟨fun p off => ?_, fun p a outside => if_neg (by omega)⟩
  have := off.isLt
  rw [windowOffset, if_pos (by omega), Nat.add_sub_cancel_left, BitVec.ofNat_toNat, BitVec.setWidth_eq]

end Sys2Proof.Machine
end

section
/-! SUPPORT. CMP, HAMW and HAMB as distances of the bytes they name (00_scope.md R13; 20_memory.md R76). -/

namespace Sys2Proof.Machine

/-! ### Distances word by word and byte by byte -/

theorem ham_congr {x y x' y' : Nat → Byte} {n : Nat} (h : ∀ i < n, x' i = x i ∧ y' i = y i) :
    ham x' y' n = ham x y n :=
  sumTo_congr fun i hi => by rw [(h i hi).1, (h i hi).2]

theorem gham_congr {x y x' y' : Nat → Byte} {n : Nat} (h : ∀ i < n, x' i = x i ∧ y' i = y i) :
    gham x' y' n = gham x y n :=
  countTo_congr fun i hi => by rw [(h i hi).1, (h i hi).2]

theorem bruteForce_congr {k : Kind} {x y x' y' : Nat → Byte} {n : Nat} (h : ∀ i < n, x' i = x i ∧ y' i = y i) :
    Claims.bruteForce k x' y' n = Claims.bruteForce k x y n := by
  rw [Claims.bruteForce, Claims.bruteForce, ham_congr h, gham_congr h]

theorem ham_words (x y : Nat → Byte) (n : Nat) :
    (sumTo n fun k => popcount (wordOf x k ^^^ wordOf y k)) = ham x y (8 * n) := by
  simp only [popcount_xor_wordOf]
  exact sumTo_blocks n 8 fun i => popcount (x i ^^^ y i)

theorem gham_words (x y : Nat → Byte) (n : Nat) :
    (sumTo n fun k => ghw (wordOf x k ^^^ wordOf y k)) = gham x y (8 * n) := by
  simp only [ghw_xor_wordOf]
  exact sumTo_blocks n 8 fun i => (x i != y i).toNat

theorem ham_poptab (x y : Nat → Byte) (n : Nat) :
    (sumTo n fun i => (poptab (x i ^^^ y i)).toNat) = ham x y n :=
  sumTo_congr fun _ _ => poptab_toNat _

theorem ham_append (x y : Nat → Byte) (m n : Nat) :
    ham x y (m + n) = ham x y m + ham (fun i => x (m + i)) (fun i => y (m + i)) n :=
  sumTo_append m n _

/-! ### The distances of CMP -/

theorem ham_twoWords (x y : Nat → Byte) :
    popcount (wordOf x 0 ^^^ wordOf y 0) + popcount (wordOf x 1 ^^^ wordOf y 1) = ham x y 16 := by
  rw [← ham_words x y 2]
  simp only [sumTo, Nat.zero_add]

theorem State.cmpH4_eq_ham (s : State) : s.cmpH4 = ham s.byteRef s.byteB 4 :=
  (popcount_xor_halfOf _ _ 0).trans (sumTo_congr fun _ _ => by rw [Nat.mul_zero, Nat.zero_add])

theorem State.cmpH8_eq_ham (s : State) : s.cmpH8 = ham s.byteRef s.byteB 8 :=
  (Nat.zero_add _).symm.trans (ham_words _ _ 1)

theorem State.cmpH16_eq_ham (s : State) : s.cmpH16 = ham s.byteRef s.byteB 16 := ham_twoWords _ _

theorem State.cmpH20_eq_ham (s : State) : s.cmpH20 = ham s.byteRef s.byteB 20 := by
  rw [show 20 = 16 + 4 from rfl, ham_append, ← ham_twoWords]
  exact congrArg _ (popcount_xor_halfOf s.byteRef s.byteB 4)

theorem State.cmpH32_eq_ham (s : State) : s.cmpH32 = ham s.byteRef s.byteB 32 := ham_words _ _ 4

theorem State.cmpH64_eq_ham (s : State) : s.cmpH64 = ham s.byteRef s.byteB 64 := ham_words _ _ 8

theorem State.cmpHdef_eq_ham (s : State) (len : Nat) : s.cmpHdef len = ham s.byteRef s.byteB len := by
  conv_rhs => rw [← Nat.div_add_mod len 8, ham_append, ← ham_words, ← ham_poptab]
  rfl

theorem State.cmpG8_eq_gham (s : State) : s.cmpG8 = gham s.byteRef s.byteB 8 :=
  (Nat.zero_add _).symm.trans (gham_words _ _ 1)

theorem State.cmpGm8_eq_gham (s : State) {len : Nat} (h : len % 8 = 0) :
    s.cmpGm8 len = gham s.byteRef s.byteB len := by
  conv_rhs => rw [← Nat.mul_div_cancel' (Nat.dvd_of_mod_eq_zero h), ← gham_words]
  rfl

/-- CMP computes the brute-force distance of REF and BUF_B over LEN bytes, for every legal LEN
(42_hamming_comparators.md R179). -/
theorem cmpDistance_eq_bruteForce {s : State} {h : Held} (hl : legalSize h.kind h.len.toNat = true) :
    s.cmpDistance h = Claims.bruteForce h.kind s.byteRef s.byteB h.len.toNat := by
  obtain ⟨k, len⟩ := h
  have fixed {n : Nat} (d : Nat → Nat) (hn : (len.toNat == n) = true) : d n = d len.toNat := by
    rw [beq_iff_eq.mp hn]
  cases k with
  | h4 => exact s.cmpH4_eq_ham.trans (fixed (ham _ _) hl)
  | h8 => exact s.cmpH8_eq_ham.trans (fixed (ham _ _) hl)
  | h16 => exact s.cmpH16_eq_ham.trans (fixed (ham _ _) hl)
  | h20 => exact s.cmpH20_eq_ham.trans (fixed (ham _ _) hl)
  | h32 => exact s.cmpH32_eq_ham.trans (fixed (ham _ _) hl)
  | h64 => exact s.cmpH64_eq_ham.trans (fixed (ham _ _) hl)
  | hdef => exact s.cmpHdef_eq_ham len.toNat
  | g8 => exact s.cmpG8_eq_gham.trans (fixed (gham _ _) hl)
  | g16 => exact fixed (gham s.byteRef s.byteB) hl
  | g32 => exact fixed (gham s.byteRef s.byteB) hl
  | gm8 => exact s.cmpGm8_eq_gham (beq_iff_eq.mp hl)

/-! ### The commands -/

theorem exec_cmp_of_held {s : State} {h : Held} (hh : s.held = some h)
    (hl : legalSize h.kind h.len.toNat = true) :
    exec .cmp s = .next (s.setResult (Claims.bruteForce h.kind s.byteRef s.byteB h.len.toNat)) := by
  simp only [exec, execCmp, hh, cmpDistance_eq_bruteForce hl]

/-- HAMW within the buffers is the distance of their first `8·nwords` bytes (41_hamming_functions.md R151). -/
theorem exec_hamw_of_le {s : State} {n : BitVec 16} (hn : 8 * n.toNat ≤ s.params.maxCodeBytes) :
    exec (.hamw n) s = .next (s.setResult (ham s.byteA s.byteB (8 * n.toNat))) := by
  rw [← ham_words]
  exact congrArg Host.Outcome.next (if_neg (Nat.not_lt.mpr hn))

/-- HAMB within the buffers is the distance of their first `nbytes` bytes (41_hamming_functions.md R153). -/
theorem exec_hamb_of_le {s : State} {n : BitVec 16} (hn : n.toNat ≤ s.params.maxCodeBytes) :
    exec (.hamb n) s = .next (s.setResult (ham s.byteA s.byteB n.toNat)) := by
  rw [← ham_poptab]
  exact congrArg Host.Outcome.next (if_neg (Nat.not_lt.mpr hn))

/-! ### The obligation -/

/-- Settles O57: each of the three results is a distance of the named bytes. -/
theorem commandsReadOnlyTheBytesNamed : Obligations.CommandsReadOnlyTheBytesNamed := by
  intro s u t w _ _ hparams
  refine ⟨fun h hs hu hl hbytes ht hw => ?_, fun n hn hbytes ht hw => ?_, fun n hn hbytes ht hw => ?_⟩
  · cases (exec_cmp_of_held hs hl).symm.trans ht
    cases (exec_cmp_of_held hu hl).symm.trans hw
    exact congrArg (BitVec.ofNat 64) (bruteForce_congr hbytes)
  · cases (exec_hamw_of_le hn).symm.trans ht
    cases (exec_hamw_of_le (hparams ▸ hn)).symm.trans hw
    exact congrArg (BitVec.ofNat 64) (ham_congr hbytes)
  · cases (exec_hamb_of_le hn).symm.trans ht
    cases (exec_hamb_of_le (hparams ▸ hn)).symm.trans hw
    exact congrArg (BitVec.ofNat 64) (ham_congr hbytes)

end Sys2Proof.Machine
end

section
/-! SUPPORT. The encoding (30_encoding.md): the fields of each command, the decoder and the encoder as inverses of each
other, the match and mask rows, the illegal command values, and the pseudo-instructions. -/

namespace Sys2Proof

/-! ### The fields of a command -/

/-- The command of these OPC, KIND and LEN, an operand a command does not take being 0 (30_encoding.md R91, R94). -/
structure Instr.HasFields (i : Instr) (op : Opc) (kind : BitVec 4) (len : BitVec 16) : Prop where
  kindZero : op ≠ .set → kind = 0
  lenZero : op.takesLen = false → len = 0
  command : Instr.ofFields op kind len = some i

theorem Instr.exists_fields (i : Instr) : ∃ op kind len, i.HasFields op kind len := by
  have plain {op : Opc} (h : Instr.ofFields op 0 0 = some i) : ∃ op kind len, i.HasFields op kind len :=
    ⟨op, 0, 0, fun _ => rfl, fun _ => rfl, h⟩
  have set (k : Kind) (len : BitVec 16) : ∃ op kind len', (Instr.ofSet k len).HasFields op kind len' :=
    ⟨.set, k.code, len, (absurd rfl ·), nofun, by simp [Instr.ofFields]⟩
  cases i with
  | popc8 => exact plain (op := .popc8) rfl
  | popc32 => exact plain (op := .popc32) rfl
  | popc64 => exact plain (op := .popc64) rfl
  | ghw => exact plain (op := .ghw) rfl
  | xacc => exact plain (op := .xacc) rfl
  | aclr => exact plain (op := .aclr) rfl
  | cmp => exact plain (op := .cmp) rfl
  | gsz => exact plain (op := .gsz) rfl
  | hamw len => exact ⟨.hamw, 0, len, fun _ => rfl, nofun, rfl⟩
  | hamb len => exact ⟨.hamb, 0, len, fun _ => rfl, nofun, rfl⟩
  | setH4 len => exact set .h4 len
  | setH8 len => exact set .h8 len
  | setH16 len => exact set .h16 len
  | setH20 len => exact set .h20 len
  | setH32 len => exact set .h32 len
  | setH64 len => exact set .h64 len
  | setHdef len => exact set .hdef len
  | setG8 len => exact set .g8 len
  | setG16 len => exact set .g16 len
  | setG32 len => exact set .g32 len
  | setGm8 len => exact set .gm8 len

theorem encode_ofSet (k : Kind) (len : BitVec 16) : encode (Instr.ofSet k len) = packCmd .set k.code len := by
  cases k <;> rfl

/-- A command value is its fields packed (30_encoding.md R91). -/
theorem Instr.HasFields.encode_eq {i : Instr} {op : Opc} {kind : BitVec 4} {len : BitVec 16}
    (h : i.HasFields op kind len) : encode i = packCmd op kind len := by
  obtain ⟨hkind, hlen, hi⟩ := h
  cases op with
  | set =>
    obtain ⟨k, hk, rfl⟩ := Option.map_eq_some_iff.mp hi
    rw [encode_ofSet, Kind.code_of_ofCode hk]
  | hamw | hamb =>
    obtain rfl := hkind (by decide)
    cases hi
    rfl
  | popc8 | popc32 | popc64 | ghw | xacc | aclr | cmp | gsz =>
    obtain rfl := hkind (by decide)
    obtain rfl := hlen rfl
    cases hi
    rfl

/-! ### The decoder and the encoder -/

/-- A value decodes when every check of 30_encoding.md R100 passes. -/
theorem decode_eq_ok_iff_fields {gh : Bool} {v : Word} {i : Instr} :
    decode gh v = .ok i ↔ cmdHigh v = 0 ∧ cmdRsv v = 0 ∧ i.wellFormed gh = true ∧
      ∃ op, Opc.ofCode (cmdOpc v) = some op ∧ i.HasFields op (cmdKind v) (cmdLen v) := by
  constructor
  · intro h
    unfold decode at h
    split at h
    · cases h
    next hres =>
    split at h
    · cases h
    next op hop =>
    split at h
    · cases h
    next hkind =>
    split at h
    · cases h
    next hlen =>
    split at h
    · cases h
    next hi =>
    split at h
    next hw =>
      cases h
      simp only [not_or, not_not] at hres
      exact ⟨hres.1, hres.2, hw, op, hop, by simpa using hkind, by simpa using hlen, hi⟩
    · cases h
  · rintro ⟨hhigh, hrsv, hw, op, hop, hkind, hlen, hi⟩
    have kindPasses : ¬(op ≠ .set ∧ cmdKind v ≠ 0) := fun h => h.2 (hkind h.1)
    have lenPasses : ¬(op.takesLen = false ∧ cmdLen v ≠ 0) := fun h => h.2 (hlen h.1)
    simp only [decode, hhigh, hrsv, hop, hi, hw, if_neg kindPasses, if_neg lenPasses, ne_eq, not_true, or_self,
      if_false, if_true]

/-- The decoder answers exactly the commands that exist on the block, each at its own encoding
(30_encoding.md R91, R100). -/
theorem decode_eq_ok_iff {gh : Bool} {v : Word} {i : Instr} :
    decode gh v = .ok i ↔ encode i = v ∧ i.wellFormed gh = true := by
  rw [decode_eq_ok_iff_fields]
  constructor
  · rintro ⟨hhigh, hrsv, hw, op, hop, hf⟩
    exact ⟨hf.encode_eq.trans (packCmd_fields (Opc.code_of_ofCode hop).symm hhigh hrsv), hw⟩
  · rintro ⟨rfl, hw⟩
    obtain ⟨op, kind, len, hf⟩ := i.exists_fields
    rw [hf.encode_eq, cmdHigh_packCmd, cmdRsv_packCmd, cmdOpc_packCmd, cmdKind_packCmd, cmdLen_packCmd]
    exact ⟨rfl, rfl, hw, op, Opc.ofCode_code op, hf⟩

/-- Settles O5, from the fields each command packs. -/
theorem decodeReadsBackEncode : Obligations.DecodeReadsBackEncode :=
  fun _ _ hw => decode_eq_ok_iff.mpr ⟨rfl, hw⟩

/-- Settles O6, by packing the fields the decoder has read. -/
theorem encodeReadsBackDecode : Obligations.EncodeReadsBackDecode :=
  fun _ _ _ h => decode_eq_ok_iff.mp h

/-- Settles O8: each word is the encoding of its command. -/
theorem wordsOfTheSpecDecode : Obligations.WordsOfTheSpecDecode :=
  ⟨decodeReadsBackEncode true .ghw rfl, decodeReadsBackEncode true (.hamw 2) rfl,
    decodeReadsBackEncode true (.setHdef 21) rfl, decodeReadsBackEncode true (.setGm8 40) rfl,
    decodeReadsBackEncode true .cmp rfl⟩

/-! ### The match and mask rows -/

theorem Instr.wellFormed_true (i : Instr) : i.wellFormed true = true := by
  cases i <;> rfl

theorem encode_inj {i j : Instr} (h : encode i = encode j) : i = j := by
  have hi := decodeReadsBackEncode true i i.wellFormed_true
  rw [h, decodeReadsBackEncode true j j.wellFormed_true] at hi
  cases hi
  rfl

/-- The commands that exist only with GH_PRESENT, by mnemonic (30_encoding.md R99). -/
theorem Instr.wellFormed_false_iff (i : Instr) :
    i.wellFormed false = true ↔ i.mnemonic ∉ ["GHW", "SET.G8", "SET.G16", "SET.G32", "SET.GM8"] := by
  cases i <;> simp [Instr.wellFormed, Instr.mnemonic]

/-- The mask of the rows whose LEN is free (30_encoding.md R99). -/
def lengthMask : Word := 0xFFFFFFFF0000FFFF#64

theorem getLsbD_lengthMask : ∀ i < 64, lengthMask.getLsbD i = decide (i < 16 ∨ 32 ≤ i) := by decide

/-- A value meets a row whose LEN is free when it is that row's command value with its own LEN. -/
theorem and_lengthMask_eq_iff {op : Opc} {kind : BitVec 4} {v : Word} :
    v &&& lengthMask = packCmd op kind 0 ↔ packCmd op kind (cmdLen v) = v := by
  simp only [BitVec.eq_of_getLsbD_eq_iff, BitVec.getLsbD_and, getLsbD_packCmd, cmdLen, BitVec.getLsbD_extractLsb']
  refine forall_congr' fun i => forall_congr' fun hi => ?_
  rw [getLsbD_lengthMask i hi]
  grind
theorem packCmd_and_lengthMask (op : Opc) (kind : BitVec 4) (len : BitVec 16) :
    packCmd op kind len &&& lengthMask = packCmd op kind 0 :=
  and_lengthMask_eq_iff.mpr (by rw [cmdLen_packCmd])

/-- Each command's encoding meets the row of its mnemonic. -/
theorem exists_row_admits_encode (i : Instr) :
    ∃ r ∈ encodingRows, r.admits (encode i) = true ∧ r.mnemonic = i.mnemonic := by
  have row (n : Fin 21) (ha : (encodingRows.get n).admits (encode i) = true)
      (hm : (encodingRows.get n).mnemonic = i.mnemonic) :
      ∃ r ∈ encodingRows, r.admits (encode i) = true ∧ r.mnemonic = i.mnemonic :=
    ⟨_, List.get_mem encodingRows n, ha, hm⟩
  have free (op : Opc) (kind : BitVec 4) (len : BitVec 16) :
      (packCmd op kind len &&& lengthMask == packCmd op kind 0) = true :=
    beq_iff_eq.mpr (packCmd_and_lengthMask op kind len)
  cases i with
  | popc8 => exact row 0 rfl rfl
  | popc32 => exact row 1 rfl rfl
  | popc64 => exact row 2 rfl rfl
  | ghw => exact row 3 rfl rfl
  | xacc => exact row 4 rfl rfl
  | aclr => exact row 5 rfl rfl
  | cmp => exact row 6 rfl rfl
  | gsz => exact row 7 rfl rfl
  | hamw len => exact row 8 (free .hamw 0 len) rfl
  | hamb len => exact row 9 (free .hamb 0 len) rfl
  | setH4 len => exact row 10 (free .set 0x0 len) rfl
  | setH8 len => exact row 11 (free .set 0x1 len) rfl
  | setH16 len => exact row 12 (free .set 0x2 len) rfl
  | setH20 len => exact row 13 (free .set 0x3 len) rfl
  | setH32 len => exact row 14 (free .set 0x4 len) rfl
  | setH64 len => exact row 15 (free .set 0x5 len) rfl
  | setHdef len => exact row 16 (free .set 0x6 len) rfl
  | setG8 len => exact row 17 (free .set 0x8 len) rfl
  | setG16 len => exact row 18 (free .set 0x9 len) rfl
  | setG32 len => exact row 19 (free .set 0xA len) rfl
  | setGm8 len => exact row 20 (free .set 0xB len) rfl

theorem exists_command_of_fixedRow {r : EncodingRow} {v : Word} (hr : r ∈ fixedRows) (h : r.admits v = true) :
    ∃ i, encode i = v ∧ i.mnemonic = r.mnemonic := by
  have whole : ∀ r ∈ fixedRows, r.mask = BitVec.allOnes 64 := by decide
  simp only [EncodingRow.admits, whole r hr, BitVec.and_allOnes, beq_iff_eq] at h
  subst h
  simp only [fixedRows, List.mem_cons, List.not_mem_nil, or_false] at hr
  rcases hr with rfl | rfl | rfl | rfl | rfl | rfl | rfl | rfl
  · exact ⟨.popc8, rfl, rfl⟩
  · exact ⟨.popc32, rfl, rfl⟩
  · exact ⟨.popc64, rfl, rfl⟩
  · exact ⟨.ghw, rfl, rfl⟩
  · exact ⟨.xacc, rfl, rfl⟩
  · exact ⟨.aclr, rfl, rfl⟩
  · exact ⟨.cmp, rfl, rfl⟩
  · exact ⟨.gsz, rfl, rfl⟩

theorem exists_command_of_lengthRow {r : EncodingRow} {v : Word} (hr : r ∈ lengthRows) (h : r.admits v = true) :
    ∃ i, encode i = v ∧ i.mnemonic = r.mnemonic := by
  have free : ∀ r ∈ lengthRows, r.mask = lengthMask := by decide
  have own {op : Opc} {kind : BitVec 4} (hm : packCmd op kind 0 = r.matchBits) :
      packCmd op kind (cmdLen v) = v := by
    rw [EncodingRow.admits, free r hr, ← hm, beq_iff_eq] at h
    exact and_lengthMask_eq_iff.mp h
  clear h
  simp only [lengthRows, List.mem_cons, List.not_mem_nil, or_false] at hr
  rcases hr with rfl | rfl | rfl | rfl | rfl | rfl | rfl | rfl | rfl | rfl | rfl | rfl | rfl
  · exact ⟨.hamw (cmdLen v), own rfl, rfl⟩
  · exact ⟨.hamb (cmdLen v), own rfl, rfl⟩
  · exact ⟨.setH4 (cmdLen v), own rfl, rfl⟩
  · exact ⟨.setH8 (cmdLen v), own rfl, rfl⟩
  · exact ⟨.setH16 (cmdLen v), own rfl, rfl⟩
  · exact ⟨.setH20 (cmdLen v), own rfl, rfl⟩
  · exact ⟨.setH32 (cmdLen v), own rfl, rfl⟩
  · exact ⟨.setH64 (cmdLen v), own rfl, rfl⟩
  · exact ⟨.setHdef (cmdLen v), own rfl, rfl⟩
  · exact ⟨.setG8 (cmdLen v), own rfl, rfl⟩
  · exact ⟨.setG16 (cmdLen v), own rfl, rfl⟩
  · exact ⟨.setG32 (cmdLen v), own rfl, rfl⟩
  · exact ⟨.setGm8 (cmdLen v), own rfl, rfl⟩

/-- A value that meets a row is the encoding of a command of that row's mnemonic. -/
theorem exists_command_of_row {r : EncodingRow} {v : Word} (hr : r ∈ encodingRows) (h : r.admits v = true) :
    ∃ i, encode i = v ∧ i.mnemonic = r.mnemonic :=
  (List.mem_append.mp hr).elim (exists_command_of_fixedRow · h) (exists_command_of_lengthRow · h)

theorem encodingRows_mnemonics_nodup : (encodingRows.map EncodingRow.mnemonic).Nodup := by decide

/-- Settles O7: the rows and the commands match by mnemonic, and no two commands share an encoding. -/
theorem matchMaskRowsNameTheLegalCommands : Obligations.MatchMaskRowsNameTheLegalCommands := by
  refine ⟨fun v r hr r' hr' h h' => ?_, fun v i hd => ?_, fun v r hr h => ?_, fun v i => ?_⟩
  · obtain ⟨i, hi, hm⟩ := exists_command_of_row hr h
    obtain ⟨j, hj, hm'⟩ := exists_command_of_row hr' h'
    obtain rfl := encode_inj (hi.trans hj.symm)
    exact List.inj_on_of_nodup_map encodingRows_mnemonics_nodup hr hr' (hm.symm.trans hm')
  · obtain ⟨rfl, -⟩ := decode_eq_ok_iff.mp hd
    exact exists_row_admits_encode i
  · obtain ⟨i, hi, hm⟩ := exists_command_of_row hr h
    exact ⟨i, decode_eq_ok_iff.mpr ⟨hi, i.wellFormed_true⟩, hm⟩
  · rw [decode_eq_ok_iff, decode_eq_ok_iff, i.wellFormed_false_iff]
    simp only [i.wellFormed_true, and_true]

/-! ### Illegal command values -/

/-- The listed OPC values are those of the operations (30_encoding.md R94). -/
theorem Opc.ofCode_eq_none_iff : ∀ c : BitVec 8, Opc.ofCode c = none ↔
    c.toNat ∉ [0x10, 0x11, 0x12, 0x13, 0x14, 0x15, 0x20, 0x21, 0x30, 0x31, 0x32] := by decide

/-- The reserved KIND values are those of no variant (30_encoding.md R95). -/
theorem Kind.ofCode_eq_none_iff : ∀ c : BitVec 4, Kind.ofCode c = none ↔
    c.toNat ∈ [0x7, 0xC, 0xD, 0xE, 0xF] := by decide
/-- SET with a KIND and a LEN is a command of the block unless its KIND is reserved or needs GH_PRESENT
(30_encoding.md R95, R96). -/
theorem exists_hasFields_set_iff {gh : Bool} {kind : BitVec 4} {len : BitVec 16} :
    (∃ i : Instr, i.HasFields .set kind len ∧ i.wellFormed gh = true) ↔
      ¬ Claims.IllegalFields gh Opc.set.code.toNat kind.toNat 0 len.toNat 0 := by
  cases hk : Kind.ofCode kind with
  | none =>
    have reserved := (Kind.ofCode_eq_none_iff kind).mp hk
    constructor
    · rintro ⟨i, ⟨-, -, hi⟩, -⟩
      simp [Instr.ofFields, hk] at hi
    · exact fun h => absurd (.inr (.inr (.inr (.inr (.inr (.inl ⟨rfl, reserved⟩)))))) h
  | some k =>
    obtain rfl := Kind.code_of_ofCode hk
    have fields {i : Instr} : i.HasFields .set k.code len ↔ i = Instr.ofSet k len := by
      constructor
      · rintro ⟨-, -, hi⟩
        simpa [Instr.ofFields, eq_comm] using hi
      · rintro rfl
        exact ⟨(absurd rfl ·), nofun, by simp [Instr.ofFields]⟩
    simp only [fields, exists_eq_left]
    cases k <;> simp [Claims.IllegalFields, Instr.ofSet, Instr.wellFormed, Opc.code, Kind.code]

/-- The checks of 30_encoding.md R96 that come after the reserved bits and the opcode. -/
theorem exists_hasFields_iff {gh : Bool} {op : Opc} {kind : BitVec 4} {len : BitVec 16} :
    (∃ i : Instr, i.HasFields op kind len ∧ i.wellFormed gh = true) ↔
      ¬ Claims.IllegalFields gh op.code.toNat kind.toNat 0 len.toNat 0 := by
  have fields {i j : Instr} (hj : Instr.ofFields op kind len = some j) :
      i.HasFields op kind len ↔ (op ≠ .set → kind = 0) ∧ (op.takesLen = false → len = 0) ∧ j = i :=
    ⟨fun ⟨hk, hl, hi⟩ => ⟨hk, hl, by simpa [hj] using hi⟩,
      fun ⟨hk, hl, hi⟩ => ⟨hk, hl, hi ▸ hj⟩⟩
  cases op with
  | set => exact exists_hasFields_set_iff
  | popc8 | popc32 | popc64 | ghw | xacc | aclr | hamw | hamb | cmp | gsz =>
    simp [Claims.IllegalFields, fields rfl, Opc.code, Opc.takesLen, Instr.wellFormed, and_assoc,
      ← BitVec.toNat_inj]

/-- The values that decode to no command are those 30_encoding.md R96 calls illegal. -/
theorem exists_decode_eq_ok_iff {gh : Bool} {v : Word} :
    (∃ i, decode gh v = .ok i) ↔ ¬ Claims.IllegalCmd gh v := by
  change _ ↔ ¬ Claims.IllegalFields gh (cmdOpc v).toNat (cmdKind v).toNat (cmdRsv v).toNat (cmdLen v).toNat
    (cmdHigh v).toNat
  simp only [decode_eq_ok_iff_fields]
  by_cases hhigh : cmdHigh v = 0
  case neg => exact iff_of_false (fun ⟨_, h, _⟩ => hhigh h) (· (.inl (BitVec.toNat_ne_iff_ne.mpr hhigh)))
  by_cases hrsv : cmdRsv v = 0
  case neg => exact iff_of_false (fun ⟨_, _, h, _⟩ => hrsv h) (· (.inr (.inl (BitVec.toNat_ne_iff_ne.mpr hrsv))))
  cases hop : Opc.ofCode (cmdOpc v) with
  | none =>
    have unlisted := (Opc.ofCode_eq_none_iff _).mp hop
    exact iff_of_false (fun ⟨_, _, _, _, _, h, _⟩ => nomatch h) (· (.inr (.inr (.inl unlisted))))
  | some op =>
    rw [hhigh, hrsv, ← Opc.code_of_ofCode hop]
    refine Iff.trans (exists_congr fun i => ?_) exists_hasFields_iff
    simp [and_comm]

namespace Machine

theorem writeCmd_of_decode_error {s : State} {v : Word} {e : Illegal} (he : s.error = none)
    (hd : decode s.params.ghPresent v = .error e) : writeCmd v s = .next { s with error := some .illegal } := by
  simp [writeCmd, State.raise, he, hd]

/-- Settles O9: the step serves the CMD write, and the value decodes unless it is illegal. -/
theorem illegalCommandRaisesIllegal : Obligations.IllegalCommandRaisesIllegal := by
  intro s v rest hp he
  rw [step_cmdWrite hp]
  refine ⟨fun hv => ?_, fun hv => ?_⟩
  · cases hd : decode s.params.ghPresent v with
    | ok i => exact absurd hv (exists_decode_eq_ok_iff.mp ⟨i, hd⟩)
    | error e => exact writeCmd_of_decode_error (s := s.withPending rest) he hd
  · obtain ⟨i, hd⟩ := exists_decode_eq_ok_iff.mpr hv
    exact ⟨i, hd, writeCmd_of_decode (s := s.withPending rest) he hd⟩

/-! ### The pseudo-instructions -/

theorem lenOperand_of_lt {n : Nat} (h : n < 0x10000) : lenOperand n = some (BitVec.ofNat 16 n) :=
  if_pos h

/-- Settles O21: the fixed ones by their encoding, HAMBITS by what its number of bits is a multiple of. -/
theorem pseudoInstructionsAreTheirExpansions : Obligations.PseudoInstructionsAreTheirExpansions := by
  refine ⟨rfl, rfl, rfl, fun n hwords hlt => ?_, fun n hwords hbytes hlt => ?_, fun n hbytes => ?_, rfl⟩
  · simp only [AsmLine.assemble, if_pos hwords, lenOperand_of_lt hlt, Option.map_some]
  · simp only [AsmLine.assemble, if_neg hwords, if_pos hbytes, lenOperand_of_lt hlt, Option.map_some]
  · have hwords : n % 64 ≠ 0 := by omega
    simp only [AsmLine.assemble, if_neg hwords, if_neg hbytes]

end Machine

end Sys2Proof
end

section
/-! SUPPORT. The popcount_reducer (40_popcount_reducer.md): the two readings of ghw, the counts RESULT takes, and the
accumulator with the host loop that fills it. -/

namespace Sys2Proof.Machine

/-! ### Lanes of a word -/

/-- The count of a value is the sum of the counts of its halves (40_popcount_reducer.md R124). -/
theorem popcount_halves (v : Word) :
    popcount v = popcount (v.extractLsb' 32 32) + popcount (v.extractLsb' 0 32) := by
  rw [popcount_lanes (w := 32) (n := 2) v rfl, Nat.add_comm]
  simp [sumTo]

theorem xor_bne_zero {n : Nat} (v w : BitVec n) : (v ^^^ w != 0#n) = (v != w) := by
  rw [Bool.eq_iff_iff, bne_iff_ne, bne_iff_ne, ne_eq, BitVec.xor_eq_zero_iff]

/-! ### The shift-OR realization of ghw -/

/-- The mask of the shift-OR realization keeps bit 0 of every byte. -/
theorem extract_lowBitMask : ∀ k < 8, (0x0101010101010101#64).extractLsb' (8 * k) 8 = 1#8 := by decide

theorem popcount_and_one : ∀ b : Byte, popcount (b &&& 1#8) = (b.getLsbD 0).toNat := by decide

/-- Under the mask only bit 0 of each byte is counted. -/
theorem popcount_and_lowBitMask (t : Word) :
    popcount (t &&& 0x0101010101010101#64) = countTo 8 fun k => t.getLsbD (8 * k) := by
  rw [popcount_lanes (w := 8) (n := 8) _ rfl]
  exact sumTo_congr fun k hk => by
    rw [BitVec.extractLsb'_and, extract_lowBitMask k hk, popcount_and_one, BitVec.getLsbD_extractLsb']
    rfl

/-- One step of the spreading: bit `i` of the word collects bit `i + n`. -/
theorem getLsbD_or_ushiftRight (t : Word) (n i : Nat) :
    (t ||| t >>> n).getLsbD i = (t.getLsbD i || t.getLsbD (i + n)) := by
  rw [BitVec.getLsbD_or, BitVec.getLsbD_ushiftRight, Nat.add_comm]

/-- A byte is not 0 when one of its bits is set; the bits are taken together as the shifts by 1, 2 and 4 do. -/
theorem byte_ne_zero_eq_or : ∀ b : Byte, (b != 0#8) =
    (((b.getLsbD 0 || b.getLsbD 1) || (b.getLsbD 2 || b.getLsbD 3)) ||
      ((b.getLsbD 4 || b.getLsbD 5) || (b.getLsbD 6 || b.getLsbD 7))) := by decide

/-! ### RESULT -/

/-- A count of at most 64 fits RESULT. -/
theorem State.setResult_toNat (s : State) {n : Nat} (hn : n ≤ 64) : (s.setResult n).result.toNat = n :=
  Nat.mod_eq_of_lt (by omega)

/-- A command that writes a count of at most `m` to RESULT answers that count and keeps every other field. -/
theorem exec_count {i : Instr} {s : State} {n m : Nat} (h : exec i s = .next (s.setResult n)) (hn : n ≤ m)
    (hm : m ≤ 64) : ∃ t, exec i s = .next t ∧ t.result.toNat = n ∧ t.result.toNat ≤ m ∧
      t = { s with result := t.result } :=
  have hresult := s.setResult_toNat (hn.trans hm)
  ⟨s.setResult n, h, hresult, hresult.trans_le hn, rfl⟩

theorem exec_ghw_of_present {s : State} (h : s.params.ghPresent = true) :
    exec .ghw s = .next (s.setResult (ghw s.opa)) :=
  congrArg Host.Outcome.next (if_pos h)

theorem exec_ghw_of_absent {s : State} (h : s.params.ghPresent = false) :
    exec .ghw s = .next (s.raise .illegal) :=
  congrArg Host.Outcome.next (if_neg (Bool.eq_false_iff.mp h))

/-! ### The accumulator -/

/-- The sum of a number into a word is the sum modulo 2^64 (00_scope.md R9). -/
theorem toNat_add_ofNat (w : Word) (n : Nat) : (w + BitVec.ofNat 64 n).toNat = (w.toNat + n) % 2 ^ 64 := by
  rw [BitVec.toNat_add, BitVec.toNat_ofNat, Nat.add_mod_mod]

theorem run_of_step {s t : State} (k : Nat) (h : step s = .next t) : core.run (k + 1) s = core.run k t := by
  simp only [Host.Core.run, core, h]

theorem step_aclr {s : State} {rest : List HostEvent} (he : s.error = none)
    (hp : s.pending = cmdWrite 0x15#64 :: rest) : step s = .next ((s.withPending rest).setAcc 0) :=
  stepRunsTheDecodedCommand s _ rest .aclr hp he (decodeReadsBackEncode _ .aclr rfl)

theorem step_xacc {s : State} {rest : List HostEvent} (he : s.error = none)
    (hp : s.pending = cmdWrite 0x14#64 :: rest) :
    step s = .next ((s.withPending rest).setAcc (s.acc + BitVec.ofNat 64 (xpop s.opa s.opb))) :=
  stepRunsTheDecodedCommand s _ rest .xacc hp he (decodeReadsBackEncode _ .xacc rfl)

/-- What one round of the host loop leaves: its pair in OPA and OPB, and their differing bits added to ACC. -/
def State.accumulated (s : State) (p : Word × Word) (rest : List HostEvent) : State :=
  (((s.withPending rest).setOpa p.1).setOpb p.2).setAcc (s.acc + BitVec.ofNat 64 (xpop p.1 p.2))

/-- One round of the host loop: `st8 OPA, p.1; st8 OPB, p.2; XACC` (40_popcount_reducer.md R125). -/
theorem run_accumulationRound {s : State} {p : Word × Word} {rest : List HostEvent} (k : Nat)
    (he : s.error = none)
    (hp : s.pending = .access (.write 0x0030#16 (.v8 p.1)) :: .access (.write 0x0038#16 (.v8 p.2)) ::
      cmdWrite 0x14#64 :: rest) : core.run (k + 3) s = core.run k (s.accumulated p rest) := by
  refine (run_of_step _ (step_writeReg hp (r := .opa) rfl (by decide))).trans ?_
  refine (run_of_step _ (step_writeReg (rest := cmdWrite 0x14#64 :: rest) rfl (r := .opb) rfl (by decide))).trans ?_
  exact run_of_step _ (step_xacc (rest := rest) he rfl)

/-- The rounds of the host loop, after its ACLR, add the differing bits of their pairs to what ACC holds. -/
theorem run_accumulationRounds (pairs : List (Word × Word)) : ∀ {s : State}, s.error = none →
    s.pending = (Claims.accumulationLoop pairs).tail →
    ∃ t : State, core.run (3 * pairs.length) s = .next t ∧ t.pending = [] ∧
      t.acc.toNat = (s.acc.toNat + (pairs.map fun p => xpop p.1 p.2).sum) % 2 ^ 64 := by
  induction pairs with
  | nil =>
    intro s _ hp
    exact ⟨s, rfl, hp, (Nat.mod_eq_of_lt s.acc.isLt).symm⟩
  | cons p pairs ih =>
    intro s he hp
    have round := run_accumulationRound (3 * pairs.length) he hp
    obtain ⟨t, hrun, hdone, hacc⟩ := ih (s := s.accumulated p (Claims.accumulationLoop pairs).tail) he rfl
    refine ⟨t, round.trans hrun, hdone, ?_⟩
    rw [hacc, State.accumulated, State.setAcc_acc, toNat_add_ofNat, Nat.mod_add_mod, List.map_cons,
      List.sum_cons, Nat.add_assoc]

/-! ### The obligations -/

/-- Settles O24: the count is at most 64, and the halves are the two 32-bit lanes. -/
theorem popc64CountsOpa : Obligations.Popc64CountsOpa :=
  ⟨rfl, fun _ _ => exec_count rfl (popcount_le _) (Nat.le_refl _), popcount_halves⟩

/-- Settles O26: a byte of the XOR is 0 where the two bytes agree. -/
theorem ghwOfXorCountsDifferingBytes : Obligations.GhwOfXorCountsDifferingBytes := fun x y =>
  countTo_congr fun k _ => by rw [extract_xor, xor_bne_zero]

/-- Settles O27: the command by its sum, the host loop round by round after ACLR. -/
theorem xaccAddsTheDifferingBitsModulo : Obligations.XaccAddsTheDifferingBitsModulo := by
  refine ⟨rfl, fun s _ => ⟨_, rfl, toNat_add_ofNat _ _, fun heq => ?_, rfl⟩, fun s pairs he hp => ?_⟩
  · simp [heq, xpop]
  · rw [Nat.add_comm, run_of_step _ (step_aclr he hp)]
    obtain ⟨t, hrun, hdone, hacc⟩ := run_accumulationRounds pairs
      (s := (s.withPending (Claims.accumulationLoop pairs).tail).setAcc 0) he rfl
    exact ⟨t, hrun, hdone, by simpa [xpop] using hacc⟩

/-- Settles O39: bit 0 of a byte collects all its bits, and the mask leaves only these to count. -/
theorem shiftOrRealizationGivesGhw : Obligations.ShiftOrRealizationGivesGhw := fun v => by
  simp only [ghwShiftOr, popcount_and_lowBitMask, getLsbD_or_ushiftRight]
  refine countTo_congr fun k _ => ?_
  rw [byte_ne_zero_eq_or]
  simp [Nat.add_assoc]

/-- Settles O49: both commands write ACC by `State.setAcc`. -/
theorem accumulatorCommandsFrame : Obligations.AccumulatorCommandsFrame := by
  intro i s t hi he h
  obtain ⟨v, rfl⟩ : ∃ v, t = s.setAcc v := by
    rcases hi with rfl | rfl <;> cases h <;> exact ⟨_, rfl⟩
  exact ⟨rfl, rfl, rfl, he, fun _ => rfl, ⟨rfl, fun _ => rfl⟩, ⟨rfl, rfl, rfl, rfl⟩⟩

/-- Settles O22: the table's entry, as a 64-bit word. -/
theorem popc8CountsTheLowByteOfOpa : Obligations.Popc8CountsTheLowByteOfOpa :=
  ⟨rfl, fun s _ => by rw [← BitVec.ofNat_toNat]; rfl⟩

/-- Settles O23: the count is at most 32. -/
theorem popc32CountsTheLowHalfOfOpa : Obligations.Popc32CountsTheLowHalfOfOpa :=
  ⟨rfl, fun _ _ => exec_count rfl (popcount_le _) (by decide)⟩

/-- Settles O25: with the option the count is at most 8, without it the error is ILLEGAL. -/
theorem ghwCountsTheNonzeroBytesOfOpa : Obligations.GhwCountsTheNonzeroBytesOfOpa := by
  refine ⟨rfl, fun s he => ⟨fun present => ?_, fun absent => ?_⟩⟩
  · exact exec_count (exec_ghw_of_present present) (countTo_le 8 _) (by decide)
  · rw [exec_ghw_of_absent absent, State.raise, he]

/-- Settles O28: the command and the write of the register are the same update. -/
theorem aclrClearsTheAccumulator : Obligations.AclrClearsTheAccumulator :=
  ⟨rfl, fun _ => ⟨fun _ => rfl, fun _ hp => step_writeReg hp (r := .acc) rfl (by decide)⟩⟩

end Sys2Proof.Machine
end

section
/-! SUPPORT. HAMW and HAMB (41_hamming_functions.md): their command words, the distance RESULT holds, and RANGE. -/

namespace Sys2Proof

/-- The command value for KIND 0, by shift and OR: the LEN field and the OPC field share no bit (30_encoding.md R91). -/
theorem packCmd_kind_zero (op : Opc) (len : BitVec 16) :
    packCmd op 0 len = (len.setWidth 64 <<< 16) ||| op.code.setWidth 64 := by
  refine BitVec.eq_of_getLsbD_eq fun i _ => ?_
  simp only [getLsbD_packCmd, BitVec.getLsbD_or, BitVec.getLsbD_shiftLeft, BitVec.getLsbD_setWidth]
  grind

namespace Machine

/-- RESULT holds the distance of two codes whole when their bits number fewer than 2^64. -/
theorem State.setResult_ham_toNat (s : State) (x y : Nat → Byte) {n : Nat} (hn : 8 * n < 2 ^ 64) :
    (s.setResult (ham x y n)).result.toNat = ham x y n :=
  Nat.mod_eq_of_lt ((ham_le_bits x y n).trans_lt hn)

theorem State.raise_of_none {s : State} (h : s.error = none) (c : ErrorCode) :
    s.raise c = { s with error := some c } := by
  rw [State.raise, h]

theorem exec_hamw_of_lt {s : State} {n : BitVec 16} (he : s.error = none)
    (hn : s.params.maxCodeBytes < 8 * n.toNat) : exec (.hamw n) s = .next { s with error := some .range } := by
  rw [← State.raise_of_none he]
  exact congrArg Host.Outcome.next (if_pos hn)

theorem exec_hamb_of_lt {s : State} {n : BitVec 16} (he : s.error = none)
    (hn : s.params.maxCodeBytes < n.toNat) : exec (.hamb n) s = .next { s with error := some .range } := by
  rw [← State.raise_of_none he]
  exact congrArg Host.Outcome.next (if_pos hn)

/-! ### The obligations -/

/-- Settles O29: within the buffers the word sum is the distance of `8·nwords` bytes, which fits RESULT. -/
theorem hamwIsTheWordSumOrRange : Obligations.HamwIsTheWordSumOrRange := by
  refine ⟨packCmd_kind_zero .hamw, fun s n he _ => ⟨fun hn => ?_, exec_hamw_of_lt he⟩⟩
  have hresult := s.setResult_ham_toNat s.byteA s.byteB (n := 8 * n.toNat) (by omega)
  have hbits := ham_le_bits s.byteA s.byteB (8 * n.toNat)
  exact ⟨_, exec_hamw_of_le hn, hresult.trans (ham_words _ _ _).symm, by omega, rfl⟩

/-- Settles O30: within the buffers the table sum is the distance of `nbytes` bytes, which fits RESULT. -/
theorem hambIsTheByteSumOrRange : Obligations.HambIsTheByteSumOrRange := by
  refine ⟨packCmd_kind_zero .hamb, fun s n he _ => ⟨fun hn => ?_, exec_hamb_of_lt he⟩⟩
  have hresult := s.setResult_ham_toNat s.byteA s.byteB (n := n.toNat) (by omega)
  exact ⟨_, exec_hamb_of_le hn, hresult.trans (ham_poptab _ _ _).symm,
    hresult.trans_le (ham_le_bits _ _ _), rfl⟩

/-- Settles O31: both commands write the distance of the first `8n` bytes to RESULT. -/
theorem hamwAgreesWithHamb : Obligations.HamwAgreesWithHamb := by
  intro s n m _ _ hm hn
  have hhamb := exec_hamb_of_le (s := s) (n := m) (by omega)
  rw [hm] at hhamb
  exact ⟨_, exec_hamw_of_le hn, hhamb, s.setResult_ham_toNat _ _ (by omega)⟩

end Machine

end Sys2Proof
end

section
/-! SUPPORT. The comparator (42_hamming_comparators.md): what SET, CMP and GSZ answer, and the realizations of CMP as
the distances of its defining forms. -/

namespace Sys2Proof.Machine

/-! ### SET -/

section
variable {s : State} {k : Kind} {len : BitVec 16}

/-- SET of a variant that exists on the block: RANGE, then SIZE, else the reference is held
(42_hamming_comparators.md R171). -/
theorem exec_ofSet_of_exists (he : s.error = none) (hgh : isGeneralized k = true → s.params.ghPresent = true) :
    exec (Instr.ofSet k len) s = .next
      (if len.toNat > s.params.maxCodeBytes then { s with error := some .range }
       else if legalSize k len.toNat = false then { s with error := some .size }
       else s.hold k len s.byteA) := by
  have present : ¬ (isGeneralized k = true ∧ s.params.ghPresent = false) := fun ⟨hk, habsent⟩ =>
    absurd (hgh hk) (Bool.eq_false_iff.mp habsent)
  rw [exec_ofSet, State.setReference, if_neg present, State.raise_of_none he, State.raise_of_none he]

/-- SET of a variant that exists on the block, with a length it accepts (42_hamming_comparators.md R171). -/
theorem exec_ofSet_of_legal (he : s.error = none) (hgh : isGeneralized k = true → s.params.ghPresent = true)
    (hlen : len.toNat ≤ s.params.maxCodeBytes) (hlegal : legalSize k len.toNat = true) :
    exec (Instr.ofSet k len) s = .next (s.hold k len s.byteA) := by
  rw [exec_ofSet_of_exists he hgh, if_neg (Nat.not_lt.mpr hlen), if_neg (by simp [hlegal])]

/-- Below LEN the reference is the code that SET copied (10_state.md R34). -/
theorem State.byteRef_hold_of_lt {i : Nat} (f : Nat → Byte) (hi : i < len.toNat) :
    (s.hold k len f).byteRef i = f i := by
  rw [State.byteRef_hold, if_pos hi]

end

/-- STATUS while `h` is held and ERR is 0 (10_state.md R25). -/
def Held.status (h : Held) : Word :=
  (0#32 ++ h.len ++ h.kind.code ++ 0#3 ++ 1#1 ++ 0#4 ++ 0#3 ++ 0#1 : BitVec (32 + 16 + 4 + 3 + 1 + 4 + 3 + 1))

theorem statusWord_of_held {s : State} {h : Held} (he : s.error = none) (hh : s.held = some h) :
    s.statusWord = h.status := by
  simp only [State.statusWord, State.lenField, State.kindField, State.validBit, State.errCode, State.errBit, he, hh]
  rfl

/-! ### CMP and GSZ -/

theorem exec_cmp_eq_cmpDistance {s : State} {h : Held} (hh : s.held = some h) :
    exec .cmp s = .next (s.setResult (s.cmpDistance h)) := by
  simp only [exec, execCmp, hh]

theorem exec_gsz_of_held {s : State} {h : Held} (hh : s.held = some h) :
    exec .gsz s = .next (s.setResult h.len.toNat) := by
  simp only [exec, execGsz, hh]

/-- Without a reference both commands raise NOREF (42_hamming_comparators.md R179, R190). -/
theorem exec_noref {s : State} (he : s.error = none) (hh : s.held = none) :
    exec .gsz s = .next { s with error := some .noref } ∧ exec .cmp s = .next { s with error := some .noref } := by
  simp only [exec, execGsz, execCmp, hh, State.raise_of_none he, and_self]

theorem bruteForce_le_bits (k : Kind) (x y : Nat → Byte) (n : Nat) : Claims.bruteForce k x y n ≤ 8 * n := by
  unfold Claims.bruteForce
  split
  · exact (gham_le_ham x y n).trans (ham_le_bits x y n)
  · exact ham_le_bits x y n

/-- RESULT holds the distance of two codes of LEN bytes whole (00_scope.md R7). -/
theorem State.setResult_bruteForce_toNat (s : State) (k : Kind) (x y : Nat → Byte) (len : BitVec 16) :
    (s.setResult (Claims.bruteForce k x y len.toNat)).result.toNat = Claims.bruteForce k x y len.toNat := by
  have hbits := bruteForce_le_bits k x y len.toNat
  exact Nat.mod_eq_of_lt (by omega)

/-! ### The loops of the realizations

Each loop is entered with the total over what lies before its index, and keeps it so. -/

/-- A loop over blocks of `w` indices while a whole block is left stops with the total before its last index. -/
theorem blockLoop_eq_total {loop : Nat → Nat → Nat → Nat × Nat} {block total : Nat → Nat} {n w : Nat}
    (hzero : ∀ i sum, loop 0 i sum = (i, sum))
    (hsucc : ∀ fuel i sum, loop (fuel + 1) i sum =
      if i + w ≤ n then loop fuel (i + w) (sum + block i) else (i, sum))
    (htotal : ∀ i, total i + block i = total (i + w)) (fuel : Nat) :
    ∀ {i : Nat}, i ≤ n → ∃ j ≤ n, loop fuel i (total i) = (j, total j) := by
  induction fuel with
  | zero => exact fun {i} hi => ⟨i, hi, hzero i _⟩
  | succ fuel ih =>
    intro i hi
    by_cases fits : i + w ≤ n
    · rw [hsucc, if_pos fits, htotal]
      exact ih fits
    · exact ⟨i, hi, by rw [hsucc, if_neg fits]⟩

/-- A loop over the single indices that are left, with fuel for all of them, ends with the whole total. -/
theorem tailLoop_eq_total {loop : Nat → Nat → Nat → Nat} {term total : Nat → Nat} {n : Nat}
    (hzero : ∀ i sum, loop 0 i sum = sum)
    (hsucc : ∀ fuel i sum, loop (fuel + 1) i sum = if i < n then loop fuel (i + 1) (sum + term i) else sum)
    (htotal : ∀ i, total i + term i = total (i + 1)) (fuel : Nat) :
    ∀ {i : Nat}, i ≤ n → n ≤ i + fuel → loop fuel i (total i) = total n := by
  induction fuel with
  | zero =>
    intro i hi hfuel
    rw [hzero, Nat.le_antisymm hi hfuel]
  | succ fuel ih =>
    intro i hi hfuel
    by_cases more : i < n
    · rw [hsucc, if_pos more, htotal]
      exact ih more (by omega)
    · rw [hsucc, if_neg more, Nat.le_antisymm hi (Nat.not_lt.mp more)]

theorem countTo_not_add_countTo (n : Nat) (p : Nat → Bool) : (countTo n fun i => !p i) + countTo n p = n := by
  have one (i : Nat) : (!p i).toNat + (p i).toNat = 1 := by cases p i <;> rfl
  rw [countTo, countTo, ← sumTo_add]
  simp only [one, sumTo_const, Nat.mul_one]

section
variable (x y : Nat → Byte)

theorem ham_nextWord (i : Nat) : ham x y (8 * i) + xpop (wordOf x i) (wordOf y i) = ham x y (8 * (i + 1)) := by
  rw [← ham_words, ← ham_words]
  rfl

theorem gham_nextWord (i : Nat) :
    gham x y (8 * i) + ghw (wordOf x i ^^^ wordOf y i) = gham x y (8 * (i + 1)) := by
  rw [← gham_words, ← gham_words]
  rfl

/-- The eight lanes of the wide XOR are the XORs of eight words (42_hamming_comparators.md R186). -/
theorem wideDistance_eq_sum (i : Nat) :
    wideDistance x y i = sumTo 8 fun l => popcount (wordOf x (i + l) ^^^ wordOf y (i + l)) :=
  sumTo_congr fun l hl => by rw [extract_xor, extract_block512 x i l hl, extract_block512 y i l hl]

theorem ham_nextEightWords (i : Nat) : ham x y (8 * i) + wideDistance x y i = ham x y (8 * (i + 8)) := by
  rw [← ham_words, ← ham_words, sumTo_append, wideDistance_eq_sum]

/-- A bit of the mask is set where the two bytes agree (43_generalized_hamming.md R227). -/
theorem popcount_matchMask (w : Nat) : popcount (matchMask w x y) = countTo w fun i => x i == y i := by
  refine (popcount_ofBits w _).trans (countTo_congr fun i _ => ?_)
  by_cases h : x i = y i <;> simp [equalityMask, h]

/-- The bytes that do not agree are those that differ (43_generalized_hamming.md R227). -/
theorem maskDistance_eq_gham (w : Nat) : maskDistance w x y = gham x y w := by
  have total : gham x y w + popcount (matchMask w x y) = w := by
    rw [popcount_matchMask]
    exact countTo_not_add_countTo w fun i => x i == y i
  rw [maskDistance]
  omega

theorem gham_nextFourWords (k : Nat) :
    gham x y (8 * k) + maskDistance 32 (fun b => x (8 * k + b)) (fun b => y (8 * k + b)) =
      gham x y (8 * (k + 4)) := by
  rw [maskDistance_eq_gham]
  exact (sumTo_append (8 * k) 32 _).symm

/-! ### The realizations -/

/-- Both paths of H64 (42_hamming_comparators.md R185, R186). -/
theorem realizedH64_eq_ham (accel : Bool) : realizedH64 accel x y = ham x y 64 := by
  rw [← ham_words x y 8]
  cases accel with
  | false => rfl
  | true =>
    refine (wideDistance_eq_sum x y 0).trans ?_
    simp only [Nat.zero_add]

/-- Both paths of HDEF (42_hamming_comparators.md R187, R188). -/
theorem realizedHdef_eq_ham (accel : Bool) (len : Nat) : realizedHdef accel x y len = ham x y len := by
  have body : ∃ j ≤ len / 8,
      (if accel then wideGroups x y (len / 8) (len / 8) 0 0 else (0, 0)) = (j, ham x y (8 * j)) := by
    cases accel with
    | false => exact ⟨0, Nat.zero_le _, rfl⟩
    | true =>
      exact blockLoop_eq_total (loop := wideGroups x y (len / 8)) (fun _ _ => rfl) (fun _ _ _ => rfl)
        (ham_nextEightWords x y) (len / 8) (Nat.zero_le _)
  obtain ⟨j, hj, hbody⟩ := body
  have words : scalarTail x y (len / 8) (len / 8) j (ham x y (8 * j)) = ham x y (8 * (len / 8)) :=
    tailLoop_eq_total (loop := scalarTail x y (len / 8)) (fun _ _ => rfl) (fun _ _ _ => rfl)
      (ham_nextWord x y) (len / 8) hj (Nat.le_add_left _ _)
  conv_rhs => rw [← Nat.div_add_mod len 8, ham_append, ← ham_poptab _ _ (len % 8)]
  simp only [realizedHdef, hbody, words]

/-- The compare-mask loop of GM8 (43_generalized_hamming.md R230). -/
theorem realizedGm8_eq_gham (len : Nat) : realizedGm8 x y len = gham x y (8 * (len / 8)) := by
  obtain ⟨j, hj, hbody⟩ : ∃ j ≤ len / 8, maskBlocks x y (len / 8) (len / 8) 0 0 = (j, gham x y (8 * j)) :=
    blockLoop_eq_total (loop := maskBlocks x y (len / 8)) (fun _ _ => rfl) (fun _ _ _ => rfl)
      (gham_nextFourWords x y) (len / 8) (Nat.zero_le _)
  simp only [realizedGm8, hbody]
  exact tailLoop_eq_total (loop := ghwTail x y (len / 8)) (fun _ _ => rfl) (fun _ _ _ => rfl)
    (gham_nextWord x y) (len / 8) hj (Nat.le_add_left _ _)

end

/-! ### The obligations -/

/-- Settles O34, from the state SET holds. -/
theorem setCopiesTheCodeAndHoldsIt : Obligations.SetCopiesTheCodeAndHoldsIt :=
  fun _ _ _ he hgh hlen hlegal =>
    ⟨_, exec_ofSet_of_legal he hgh hlen hlegal, rfl, fun _ hi => State.byteRef_hold_of_lt _ hi, rfl⟩

/-- Settles O37: the invariant makes LEN legal, and the distance over a legal LEN fits RESULT. -/
theorem cmpIsTheBruteForceDistance : Obligations.CmpIsTheBruteForceDistance := by
  intro s h _ hs hh
  obtain ⟨hlegal, -⟩ := hs.comparator h hh
  exact ⟨_, exec_cmp_of_held hh hlegal, s.setResult_bruteForce_toNat _ _ _ _, rfl⟩

/-- Settles O38: each realization and its defining form are the same distance; the other variants have one form. -/
theorem realizationsGiveTheDefiningForm : Obligations.RealizationsGiveTheDefiningForm := by
  rintro s ⟨k, len⟩
  cases k with
  | h64 => exact (realizedH64_eq_ham _ _ _).trans s.cmpH64_eq_ham.symm
  | hdef => exact (realizedHdef_eq_ham _ _ _ _).trans (s.cmpHdef_eq_ham _).symm
  | g16 => exact maskDistance_eq_gham _ _ 16
  | g32 => exact maskDistance_eq_gham _ _ 32
  | gm8 => exact (realizedGm8_eq_gham _ _ _).trans (gham_words _ _ _).symm
  | h4 | h8 | h16 | h20 | h32 | g8 => rfl

/-- Settles O40: CMP compares the reference SET has held, which below LEN is BUF_A. -/
theorem cmpAfterSetComparesTheBuffers : Obligations.CmpAfterSetComparesTheBuffers := by
  intro s k len he _ hgh hlen hlegal
  refine ⟨_, _, exec_ofSet_of_legal he hgh hlen hlegal, exec_cmp_of_held (h := ⟨k, len⟩) rfl hlegal, ?_⟩
  rw [State.setResult_bruteForce_toNat]
  exact bruteForce_congr fun i hi => ⟨State.byteRef_hold_of_lt _ hi, rfl⟩

/-- Settles O50: SET raises an error or holds a reference, and either update keeps the rest. -/
theorem setCommandsFrame : Obligations.SetCommandsFrame := by
  intro k len s t he h
  cases (exec_ofSet k len s).symm.trans h
  rcases setReference_cases s k len with ⟨c, -, hraise⟩ | ⟨hhold, -⟩
  · rw [hraise]
    exact ⟨rfl, rfl, rfl, rfl, fun _ => rfl, ⟨rfl, rfl, rfl, rfl⟩, .inr ⟨rfl, fun _ => rfl⟩⟩
  · rw [hhold]
    exact ⟨rfl, rfl, rfl, rfl, fun _ => rfl, ⟨rfl, rfl, rfl, rfl⟩, .inl he⟩

/-- Settles O32: the sizes that are not legal are those other than the fixed one; HDEF accepts every size. -/
theorem setOfHammingVariants : Obligations.SetOfHammingVariants := by
  intro s len he
  have set (k : Kind) (n : Nat) (hk : isGeneralized k = false)
      (hsize : legalSize k len.toNat = (len.toNat == n)) :
      exec (Instr.ofSet k len) s = .next
        (if len.toNat > s.params.maxCodeBytes then { s with error := some .range }
         else if len.toNat ≠ n then { s with error := some .size }
         else s.hold k len s.byteA) := by
    simpa only [hsize, beq_eq_false_iff_ne] using exec_ofSet_of_exists (len := len) he (k := k) (by simp [hk])
  refine ⟨fun c hc => ?_, exec_ofSet_of_exists (k := .hdef) he nofun⟩
  simp only [List.mem_cons, List.not_mem_nil, or_false] at hc
  rcases hc with rfl | rfl | rfl | rfl | rfl | rfl
  · exact set .h4 4 rfl rfl
  · exact set .h8 8 rfl rfl
  · exact set .h16 16 rfl rfl
  · exact set .h20 20 rfl rfl
  · exact set .h32 32 rfl rfl
  · exact set .h64 64 rfl rfl

/-- Settles O35: every example has a legal length below the smallest MAX_CODE_BYTES, and STATUS shows what is held. -/
theorem statusAfterEachSetExample : Obligations.StatusAfterEachSetExample := by
  intro s he hwf hgh c hc
  obtain ⟨-, hmax, -⟩ := hwf
  have status (k : Kind) (len : BitVec 16) (hlen : len.toNat ≤ 128) (hlegal : legalSize k len.toNat = true) :
      ∃ t, exec (Instr.ofSet k len) s = .next t ∧ t.readReg .status = Held.status ⟨k, len⟩ :=
    ⟨_, exec_ofSet_of_legal he (fun _ => hgh) (hlen.trans hmax) hlegal, statusWord_of_held he rfl⟩
  simp only [List.mem_cons, List.not_mem_nil, or_false] at hc
  rcases hc with rfl | rfl | rfl | rfl | rfl | rfl | rfl | rfl | rfl | rfl | rfl
  · exact status .h4 4 (by decide) rfl
  · exact status .h8 8 (by decide) rfl
  · exact status .h16 16 (by decide) rfl
  · exact status .h20 20 (by decide) rfl
  · exact status .h32 32 (by decide) rfl
  · exact status .h64 64 (by decide) rfl
  · exact status .hdef 21 (by decide) rfl
  · exact status .g8 8 (by decide) rfl
  · exact status .g16 16 (by decide) rfl
  · exact status .g32 32 (by decide) rfl
  · exact status .gm8 40 (by decide) rfl

/-- Settles O36, KIND by KIND. -/
theorem cmpComputesTheDefiningForm : Obligations.CmpComputesTheDefiningForm := by
  rintro s ⟨k, len⟩ - hh
  rw [exec_cmp_eq_cmpDistance hh]
  cases k with
  | h4 | h8 | h16 | h20 | h32 | h64 | hdef | g8 | g16 | g32 | gm8 => rfl

/-- Settles O41: LEN as a 64-bit word, or NOREF. -/
theorem gszGivesTheCodeSizeOrNoref : Obligations.GszGivesTheCodeSizeOrNoref := by
  refine ⟨rfl, fun s he => ⟨fun h hh => ?_, exec_noref he⟩⟩
  rw [exec_gsz_of_held hh, State.setResult, BitVec.ofNat_toNat]

end Sys2Proof.Machine
end

section
/-! SUPPORT. SET of the generalized variants (43_generalized_hamming.md): what SET answers by the size the variant
accepts, and without GH_PRESENT. -/

namespace Sys2Proof.Machine

section
variable {s : State} {k : Kind} {len : BitVec 16}

/-- SET of a variant that exists on the block and accepts the sizes with `p`: RANGE, then SIZE, else the reference
is held (42_hamming_comparators.md R171). -/
theorem exec_ofSet_of_legalSize_iff {p : Prop} [Decidable p] (he : s.error = none)
    (hgh : isGeneralized k = true → s.params.ghPresent = true) (hsize : legalSize k len.toNat = true ↔ p) :
    exec (Instr.ofSet k len) s = .next
      (if len.toNat > s.params.maxCodeBytes then { s with error := some .range }
       else if ¬p then { s with error := some .size }
       else s.hold k len s.byteA) := by
  simpa only [← Bool.not_eq_true, hsize] using exec_ofSet_of_exists (k := k) (len := len) he hgh

/-- SET of a generalized variant is ILLEGAL without GH_PRESENT (30_encoding.md R96). -/
theorem exec_ofSet_of_absent (he : s.error = none) (hk : isGeneralized k = true)
    (habsent : s.params.ghPresent = false) :
    exec (Instr.ofSet k len) s = .next { s with error := some .illegal } := by
  rw [exec_ofSet, State.setReference, if_pos ⟨hk, habsent⟩, State.raise_of_none he]

end

/-- Settles O33: the option decides whether the variant exists; the sizes that are not legal are those other than the
fixed one, for GM8 those that are not whole words. -/
theorem setOfGeneralizedVariants : Obligations.SetOfGeneralizedVariants := by
  refine fun s len he => ⟨fun hgh => ⟨fun c hc => ?_, ?_⟩, fun habsent i hi => ?_⟩
  · simp only [List.mem_cons, List.not_mem_nil, or_false] at hc
    rcases hc with rfl | rfl | rfl
    · exact exec_ofSet_of_legalSize_iff (k := .g8) he (fun _ => hgh) beq_iff_eq
    · exact exec_ofSet_of_legalSize_iff (k := .g16) he (fun _ => hgh) beq_iff_eq
    · exact exec_ofSet_of_legalSize_iff (k := .g32) he (fun _ => hgh) beq_iff_eq
  · exact exec_ofSet_of_legalSize_iff (k := .gm8) he (fun _ => hgh) beq_iff_eq
  · simp only [List.mem_cons, List.not_mem_nil, or_false] at hi
    rcases hi with rfl | rfl | rfl | rfl
    · exact exec_ofSet_of_absent (k := .g8) he rfl habsent
    · exact exec_ofSet_of_absent (k := .g16) he rfl habsent
    · exact exec_ofSet_of_absent (k := .g32) he rfl habsent
    · exact exec_ofSet_of_absent (k := .gm8) he rfl habsent

end Sys2Proof.Machine
end

section
/-! SUPPORT. Errors (60_exceptions.md): which errors a command raises, what a step does to the error that is held, and
that every command and every step answers a next state. -/

namespace Sys2Proof.Machine

/-! ### The errors a command raises -/

theorem illegal_mem_mayRaise_ofSet {k : Kind} (len : BitVec 16) (hk : isGeneralized k = true) :
    .illegal ∈ Claims.mayRaise (Instr.ofSet k len) := by
  cases k with
  | g8 | g16 | g32 | gm8 => exact List.mem_cons_self
  | h4 | h8 | h16 | h20 | h32 | h64 | hdef => cases hk

theorem range_mem_mayRaise_ofSet (k : Kind) (len : BitVec 16) :
    .range ∈ Claims.mayRaise (Instr.ofSet k len) := by
  cases k with
  | h4 | h8 | h16 | h20 | h32 | h64 | hdef => exact List.mem_cons_self
  | g8 | g16 | g32 | gm8 => exact List.mem_cons_of_mem _ List.mem_cons_self

/-- HDEF, which raises no SIZE, accepts every size (42_hamming_comparators.md R178). -/
theorem size_mem_mayRaise_ofSet {k : Kind} {len : BitVec 16} (hsize : legalSize k len.toNat = false) :
    .size ∈ Claims.mayRaise (Instr.ofSet k len) := by
  cases k with
  | hdef => cases hsize
  | h4 | h8 | h16 | h20 | h32 | h64 => exact List.mem_cons_of_mem _ List.mem_cons_self
  | g8 | g16 | g32 | gm8 => exact List.mem_cons_of_mem _ (List.mem_cons_of_mem _ List.mem_cons_self)

theorem setReference_raises_or_keeps_error (s : State) (k : Kind) (len : BitVec 16) :
    (∃ c ∈ Claims.mayRaise (Instr.ofSet k len), s.setReference k len = s.raise c) ∨
      (s.setReference k len).error = s.error := by
  unfold State.setReference
  split
  · next absent => exact .inl ⟨_, illegal_mem_mayRaise_ofSet len absent.1, rfl⟩
  · split
    · exact .inl ⟨_, range_mem_mayRaise_ofSet k len, rfl⟩
    · split
      · next hsize => exact .inl ⟨_, size_mem_mayRaise_ofSet hsize, rfl⟩
      · exact .inr rfl

/-- A command raises one of the errors its row of the table of 60_exceptions.md R257 gives it, or leaves the error
alone. -/
theorem exec_raises_or_keeps_error {i : Instr} {s t : State} (h : exec i s = .next t) :
    (∃ c ∈ Claims.mayRaise i, t = s.raise c) ∨ t.error = s.error := by
  rcases i.family with hi | (rfl | rfl) | ⟨k, len, rfl⟩
  · cases i with
    | popc8 | popc32 | popc64 => cases h; exact .inr rfl
    | ghw =>
      cases h
      split
      · exact .inr rfl
      · exact .inl ⟨.illegal, List.mem_cons_self, rfl⟩
    | hamw n | hamb n =>
      cases h
      split
      · exact .inl ⟨.range, List.mem_cons_self, rfl⟩
      · exact .inr rfl
    | cmp | gsz =>
      cases h
      split
      · exact .inl ⟨.noref, List.mem_cons_self, rfl⟩
      · exact .inr rfl
    | xacc | aclr | setH4 | setH8 | setH16 | setH20 | setH32 | setH64 | setHdef | setG8 | setG16 | setG32 | setGm8 =>
      cases hi
  · cases h; exact .inr rfl
  · cases h; exact .inr rfl
  · cases (exec_ofSet k len s).symm.trans h
    exact setReference_raises_or_keeps_error s k len

/-- A command that leaves an error where there was none raised it, and did nothing else. -/
theorem exec_eq_raised {i : Instr} {s t : State} {e : ErrorCode} (he : s.error = none)
    (h : exec i s = .next t) (ht : t.error = some e) :
    e ∈ Claims.mayRaise i ∧ t = { s with error := some e } := by
  rcases exec_raises_or_keeps_error h with ⟨c, hc, rfl⟩ | hkept
  · rw [State.raise_of_none he] at ht ⊢
    cases ht
    exact ⟨hc, rfl⟩
  · exact nomatch ht.symm.trans (hkept.trans he)

/-! ### What a step takes from the host -/

theorem State.writeReg_pending (s : State) (r : Reg) (v : Word) : (s.writeReg r v).pending = s.pending := by
  cases r with
  | id | cap | cmd | result | acc | opa | opb => rfl
  | status =>
    simp only [State.writeReg, State.writeStatus]
    split <;> rfl

theorem exec_pending {i : Instr} {s t : State} (h : exec i s = .next t) : t.pending = s.pending := by
  rcases exec_effect h with ⟨c, rfl⟩ | ⟨-, n, rfl, -⟩ | ⟨-, w, rfl⟩ | ⟨k, len, -, rfl, -⟩
  · rfl
  · rfl
  · rfl
  · rfl

/-- A step takes the host's next move and no other (20_memory.md R73). -/
theorem step_pending {s t : State} {e : HostEvent} {rest : List HostEvent} (hp : s.pending = e :: rest)
    (h : step s = .next t) : t.pending = rest := by
  rcases step_cases h with ⟨hnil, -⟩ | ⟨e', rest', hp', hmove⟩
  · exact nomatch hp.symm.trans hnil
  · cases hp.symm.trans hp'
    rcases hmove with ⟨-, rfl⟩ | ⟨-, -, v, -, rfl | rfl⟩ | ⟨-, -, -, rfl⟩ |
      ⟨-, -, ⟨-, rfl⟩ | ⟨-, rfl⟩ | ⟨-, i, -, hx⟩⟩ | ⟨r, -, v, -, -, -, rfl⟩ | ⟨off, v, -, rfl⟩
    · rfl
    · rfl
    · rfl
    · rfl
    · rfl
    · rfl
    · exact exec_pending hx
    · exact State.writeReg_pending _ r v
    · rfl

/-! ### While an error is held -/

section
variable {s : State} {e : ErrorCode} {rest : List HostEvent}

/-- A bad access keeps the first error (60_exceptions.md R253). -/
theorem State.badAccess_of_some (he : s.error = some e) : s.badAccess = s := State.raise_of_some he .access

theorem writeCmd_of_some (v : Word) (he : s.error = some e) : writeCmd v s = .next s := by
  simp only [writeCmd, he]

/-- A step that serves a write to the buffers (20_memory.md R67). -/
theorem step_write_of_locate_buffer {off : BitVec 16} {v : Value} {p : Nat}
    (hp : s.pending = .access (.write off v) :: rest)
    (hl : locate s.params off v.size = some (.bufA p) ∨ locate s.params off v.size = some (.bufB p)) :
    step s = .next ((s.withPending rest).storeBytes off.toNat v.size.bytes v.byte) := by
  rw [step_cons hp]
  rcases hl with hl | hl
  · obtain ⟨hoff, -⟩ := locate_bufA hl
    simp only [serve, hostWrite, State.withPending_params, hl, hoff]
  · obtain ⟨hoff, -⟩ := locate_bufB hl
    simp only [serve, hostWrite, State.withPending_params, hl, hoff]

end

/-! ### Every step answers a next state -/

theorem exists_exec_eq_next (i : Instr) (s : State) : ∃ t, exec i s = .next t :=
  let ⟨t, h, _⟩ := exec_cases i s
  ⟨t, h⟩

theorem exists_writeCmd_eq_next (v : Word) (s : State) : ∃ t, writeCmd v s = .next t := by
  rcases writeCmd_cases v s with ⟨-, h⟩ | ⟨-, -, h⟩ | ⟨-, i, -, h⟩ <;> rw [h]
  · exact ⟨_, rfl⟩
  · exact ⟨_, rfl⟩
  · exact exists_exec_eq_next i s

theorem exists_hostWrite_eq_next (off : BitVec 16) (v : Value) (s : State) : ∃ t, hostWrite off v s = .next t := by
  rcases hostWrite_cases off v s with ⟨-, h⟩ | ⟨-, h⟩ | ⟨r, -, -, h⟩ | ⟨p, -, h⟩ | ⟨p, -, h⟩ <;> rw [h]
  · exact ⟨_, rfl⟩
  · exact exists_writeCmd_eq_next v.word s
  · exact ⟨_, rfl⟩
  · exact ⟨_, rfl⟩
  · exact ⟨_, rfl⟩

theorem exists_serve_eq_next (e : HostEvent) (s : State) : ∃ t, serve e s = .next t :=
  match e with
  | .access (.read _ _) => ⟨_, rfl⟩
  | .access (.write off v) => exists_hostWrite_eq_next off v s
  | .reset => ⟨_, rfl⟩

/-! ### The obligations -/

/-- Settles O12, move by move: the CMD write is dropped, and the other moves do not look at the error. -/
theorem commandWritesAreDiscardedWhileInError : Obligations.CommandWritesAreDiscardedWhileInError := by
  intro s e rest he
  refine ⟨fun v hp => ?_, fun off n target hp hl => step_read_of_locate hp hl, fun off v p hp hl => ?_,
    fun v hp => step_writeReg hp (r := .acc) rfl (by decide),
    fun v hp => step_writeReg hp (r := .opa) rfl (by decide),
    fun v hp => step_writeReg hp (r := .opb) rfl (by decide), fun v hp => ?_⟩
  · rw [step_cmdWrite hp]
    exact writeCmd_of_some (s := s.withPending rest) v he
  · refine ⟨_, step_write_of_locate_buffer hp hl, he, fun j hj => ?_⟩
    rw [State.byteAt_storeBytes, if_pos (by omega), Nat.add_sub_cancel_left]
  · obtain ⟨clears, keeps⟩ := statusWriteClearsTheError s v rest hp
    cases hv : v.getLsbD 0 with
    | true => exact clears hv
    | false => exact (keeps hv).trans (by simp [← he])

/-- Settles O44: a command that leaves an error only raised it, and of all effects of a step only the quiet one leaves
an error. -/
theorem anErrorChangesNothingElse : Obligations.AnErrorChangesNothingElse := by
  refine ⟨fun i s t e he h ht => (exec_eq_raised he h ht).2, fun s t e move rest hp he h ht => ?_⟩
  have taken := step_pending hp h
  cases step_effect h with
  | quiet error pending observed =>
    obtain rfl : error = some e := ht
    obtain rfl : pending = rest := taken
    rfl
  | reset => cases ht
  | result | accumulate | hold | writeAcc | writeOpa | writeOpb | store => exact nomatch ht.symm.trans he

/-- Settles O45, from the table that `exec_raises_or_keeps_error` checks command by command. -/
theorem eachCommandRaisesOnlyItsErrors : Obligations.EachCommandRaisesOnlyItsErrors :=
  fun _ _ _ _ he h ht => (exec_eq_raised he h ht).1

/-- Settles O46: of all moves only reset and the write of STATUS touch an error that is held. -/
theorem theFirstErrorStaysUntilCleared : Obligations.TheFirstErrorStaysUntilCleared := by
  intro s t e he h
  rcases step_cases h with ⟨-, rfl⟩ | ⟨move, rest, hp, hmove⟩
  · exact .inl he
  · have bad : (s.withPending rest).badAccess = s.withPending rest := State.badAccess_of_some he
    rcases hmove with ⟨rfl, rfl⟩ | ⟨-, -, v, -, rfl | rfl⟩ | ⟨-, -, -, rfl⟩ |
      ⟨-, -, ⟨-, rfl⟩ | ⟨hnone, -⟩ | ⟨hnone, -⟩⟩ | ⟨r, off, v, -, ho, rfl, rfl⟩ | ⟨off, v, -, rfl⟩
    · exact .inr ⟨rfl, .inl ⟨rest, hp⟩⟩
    · exact .inl he
    · rw [bad]
      exact .inl he
    · rw [bad]
      exact .inl he
    · exact .inl he
    · exact nomatch he.symm.trans hnone
    · exact nomatch he.symm.trans hnone
    · cases r with
      | status =>
        obtain rfl := Reg.ofOffset_inj (b := 0x0010#16) ho rfl
        simp only [State.writeReg, State.writeStatus]
        split
        · next hv => exact .inr ⟨rfl, .inr ⟨v, rest, hp, hv⟩⟩
        · exact .inl he
      | id | cap | cmd | result | acc | opa | opb => exact .inl he
    · exact .inl he

/-- Settles O47: every case of a command and of a step answers a next state. -/
theorem nothingStopsTheBlock : Obligations.NothingStopsTheBlock := by
  refine ⟨exists_exec_eq_next, fun s => ?_⟩
  cases hp : s.pending with
  | nil => exact ⟨s, step_nil hp⟩
  | cons e rest =>
    rw [step_cons hp]
    exact exists_serve_eq_next e _

end Sys2Proof.Machine
end

section
/-! SUPPORT. Reset (70_reset_and_hazards.md R280): the values it leaves in the registers and the invariant of the
block right after it, and the step without a host access (R288). -/

namespace Sys2Proof.Machine

/-! ### The registers after reset -/

/-- STATUS reads 0 while no error and no reference are held (10_state.md R25). -/
theorem statusWord_of_none {s : State} (he : s.error = none) (hh : s.held = none) : s.statusWord = 0 := by
  simp only [State.statusWord, State.lenField, State.kindField, State.validBit, State.errCode, State.errBit, he, hh]
  rfl

theorem resetValues_resetWith (p : Params) : Claims.ResetValues (State.resetWith p) := by
  have status : (State.resetWith p).statusWord = 0 := statusWord_of_none rfl rfl
  exact ⟨rfl, rfl, status, rfl, rfl, rfl, rfl, rfl, rfl⟩

/-- A later reset leaves the registers as `State.resetWith` has them: the two states differ only in the fields of the
model's own. -/
theorem resetValues_resetBlock (s : State) : Claims.ResetValues s.resetBlock :=
  resetValues_resetWith s.params

theorem step_reset {s : State} {rest : List HostEvent} (hp : s.pending = .reset :: rest) :
    step s = .next (s.withPending rest).resetBlock :=
  step_cons hp

/-! ### The invariant after reset -/

/-- The parameters of the hardware at hand are allowed ones (00_scope.md R6). -/
theorem configParams_wf : Config.params.wf := by decide

/-- Nothing is written and nothing is held, so all but the parameters is legal for want of a byte or a reference. -/
theorem State.Inv.resetWith {p : Params} (hwf : p.wf) : (State.resetWith p).Inv where
  params := hwf
  memForm := List.Pairwise.nil
  memPlaces _ hc := absurd hc List.not_mem_nil
  refForm := List.Pairwise.nil
  refPlaces _ hc := absurd hc List.not_mem_nil
  comparator _ hh := absurd hh.symm (Option.some_ne_none _)
  result := Nat.zero_le _

/-! ### The obligations -/

/-- Settles O1: right after reset by the values of `State.resetWith`, and a step that serves a reset answers a state
with the same registers. -/
theorem resetLeavesTheStatedValues : Obligations.ResetLeavesTheStatedValues := by
  refine ⟨fun p => ⟨resetValues_resetWith p, rfl⟩, fun s rest hp => ?_⟩
  exact ⟨_, step_reset hp, resetValues_resetBlock _, rfl⟩

/-- Settles O11: `step` without a pending move. -/
theorem stepWithoutAccessDoesNothing : Obligations.StepWithoutAccessDoesNothing :=
  fun _ hp => step_nil hp

/-- Settles O58: any allowed parameters, and those of the hardware at hand are. -/
theorem resetMeetsTheBlockInvariant : Obligations.ResetMeetsTheBlockInvariant :=
  ⟨State.Inv.resetWith configParams_wf, fun _ hwf => State.Inv.resetWith hwf⟩

end Sys2Proof.Machine
end
